-- ==== Sys2Proof/Word.lean ====
section
/-! DEFINITION. The plain types every other file uses: bytes and words, the five-sample vector, the
NUM record of 00_scope.md R14, the value set of the decided NUM, and the small enumerations of
10_state.md. -/

namespace Sys2Proof

/-- One byte of the index stream (20_memory.md R70). -/
abbrev Byte := BitVec 8

/-- A 16-bit word: a command word, an index word or a PCM sample (30_encoding.md R88). -/
abbrev HalfWord := BitVec 16

/-- A vector, "5 consecutive audio samples (IDIM=5)" (00_scope.md R9). -/
structure Vec5 (α : Type) where
  v0 : α
  v1 : α
  v2 : α
  v3 : α
  v4 : α
  deriving DecidableEq, Repr, Inhabited

/-- Element `k` of a vector, `k = 0..4`. -/
def Vec5.get {α : Type} (v : Vec5 α) (k : Nat) : α :=
  match k with
  | 0 => v.v0
  | 1 => v.v1
  | 2 => v.v2
  | 3 => v.v3
  | _ => v.v4

/-- The vector whose element `k` is `f k`. -/
def Vec5.ofFn {α : Type} (f : Nat → α) : Vec5 α := ⟨f 0, f 1, f 2, f 3, f 4⟩

/-- The five elements, oldest first. -/
def Vec5.toList {α : Type} (v : Vec5 α) : List α := [v.v0, v.v1, v.v2, v.v3, v.v4]

/-- The record NUM of 00_scope.md R14: a carrier, its total operations, its comparisons and the
constants the rules write as literals. -/
structure NumOps (α : Type) where
  add : α → α → α
  sub : α → α → α
  mul : α → α → α
  div : α → α → α
  neg : α → α
  abs : α → α
  lt : α → α → Bool
  le : α → α → Bool
  eq : α → α → Bool
  /-- the constant `0` -/
  zero : α
  /-- the constant `1` -/
  one : α
  /-- the constant `2` -/
  two : α
  /-- the constant `10` -/
  ten : α
  /-- the constant `0.05` -/
  twentieth : α
  /-- `IN_SCALE = 0.125` (00_scope.md R9) -/
  inScale : α
  ofInt : Int → α
  log10 : α → α
  /-- ten to the power -/
  pow10 : α → α
  /-- PCM_ROUND, used only by PCM_OUT -/
  toIntRound : α → Int

/-- The value set of the decided NUM, IEEE 754 binary32 (00_scope.md R14, 92 D1): a finite number is
a sign, a biased exponent 0 to 254 and a 23-bit fraction. There is one NaN: no rule reads part of
an element (20_memory.md R61), so a payload has no meaning (log 1). -/
inductive B32 where
  | nan
  | inf (neg : Bool)
  | fin (neg : Bool) (e : Fin 255) (f : Fin 8388608)
  deriving DecidableEq, Repr, Inhabited

/-- `CTRL` (10_state.md R22). -/
inductive Ctrl where
  | idle
  | running
  | finished
  deriving DecidableEq, Repr

/-- `MODE` (10_state.md R23). -/
inductive Mode where
  | enc
  | dec
  deriving DecidableEq, Repr

/-- `PHASE`, the position 1 to 4 of the vector in its frame (10_state.md R25). -/
inductive Phase where
  | p1
  | p2
  | p3
  | p4
  deriving DecidableEq, Repr

/-- The number of a phase, 1 to 4. -/
def Phase.toNat : Phase → Nat
  | .p1 => 1
  | .p2 => 2
  | .p3 => 3
  | .p4 => 4

/-- `ERR` (10_state.md R27; the codes are those of 60_exceptions.md R251). -/
inductive ErrCode where
  | none
  | truncated
  | indexRange
  | illegalCmd
  | badState
  deriving DecidableEq, Repr

/-- The code of 60_exceptions.md R251. -/
def ErrCode.toNat : ErrCode → Nat
  | .none => 0
  | .truncated => 1
  | .indexRange => 2
  | .illegalCmd => 3
  | .badState => 4

/-- A speech ring, the rings RINGWR writes (20_memory.md R67). -/
inductive SpeechRing where
  | qin
  | qexc
  | qsyn
  deriving DecidableEq, Repr

/-- A ring, the rings RINGRD reads (20_memory.md R66). -/
inductive Ring where
  | speech (q : SpeechRing)
  | qlg
  deriving DecidableEq, Repr

/-- One of the three backward adapters (41_adapters.md R130): it names an instantiation of HWIN and
LEVDUR (40_lpc_core.md R115). -/
inductive Adapter where
  | syn
  | wgt
  | gain
  deriving DecidableEq, Repr

/-- One of the four instantiations of BWEXP (40_lpc_core.md R123), named by its decay table. -/
inductive BwTable where
  | syn
  | wz
  | wp
  | g
  deriving DecidableEq, Repr

/-- `PF_STATE`: the postfilter's private memory, "previous pitch period, residual history, filter memories, smoothed
gain" (10_state.md R42). The shape of its history is open (46_postfilter.md R231), so that part is held as one natural
number that codes it (log 8). -/
structure PfState (α : Type) where
  /-- the previous pitch period, a full-rate value in 20..140 (46_postfilter.md R234, R235) -/
  period : Nat
  /-- the last inputs of the short-term filter, newest first (R237) -/
  z : List α
  /-- the last outputs of the short-term filter before the tilt, newest first (R237) -/
  p : List α
  /-- the smoothed gain (R238) -/
  gain : α
  /-- the code of the history the rings are too short for (R235) -/
  history : Nat
  deriving DecidableEq, Repr, Inhabited

end Sys2Proof
end

