-- ==== Sys2Proof/Syntax.lean ====
section
/-! DEFINITION. The instructions of CORE, one constructor per row of spec/opcode_table.json, and the three
word formats they are written in (30_encoding.md R88). -/

namespace Sys2Proof

/-- A command, an index word or a micro-operation (00_scope.md R4). Operands that the word itself does not
carry are data on a port (ENC_VEC, DEC_VEC) or stand in the operand latches (micro-operations, log 12). -/
inductive Instr where
  /-- NOP, 45_controller.md R200 -/
  | nop
  /-- INIT_ENC, 45_controller.md R201 -/
  | initEnc
  /-- INIT_DEC pf, 45_controller.md R202 -/
  | initDec (pf : Bool)
  /-- ENC_VEC, 45_controller.md R207 -/
  | encVec
  /-- DEC_VEC, 45_controller.md R213 -/
  | decVec
  /-- FINISH, 45_controller.md R205 -/
  | finish
  /-- an index word, 30_encoding.md R89 and 44_vq.md R190: shape index and gain index -/
  | index (shape : Nat) (gain : Nat)
  /-- HWIN, 40_lpc_core.md R110 -/
  | hwin
  /-- LEVDUR, 40_lpc_core.md R116 -/
  | levdur
  /-- LEVDUR_SYN, 40_lpc_core.md R119 -/
  | levdurSyn
  /-- BWEXP, 40_lpc_core.md R122 -/
  | bwexp
  /-- ADAPT_SYN, 41_adapters.md R131 -/
  | adaptSyn
  /-- ADAPT_GAIN, 41_adapters.md R134 -/
  | adaptGain
  /-- ADAPT_WGT, 41_adapters.md R137 -/
  | adaptWgt
  /-- COMMIT_SYN, 41_adapters.md R140 -/
  | commitSyn
  /-- COMMIT_GAIN, 41_adapters.md R141 -/
  | commitGain
  /-- COMMIT_WGT, 41_adapters.md R142 -/
  | commitWgt
  /-- SCHED, 41_adapters.md R145 -/
  | sched
  /-- PREDGAIN, 42_gain_predictor.md R151 -/
  | predgain
  /-- UPDGAIN, 42_gain_predictor.md R154 -/
  | updgain
  /-- PWFILT, 43_filters.md R161 -/
  | pwfilt
  /-- ZRESP, 43_filters.md R164 -/
  | zresp
  /-- MEMUPD, 43_filters.md R166 -/
  | memupd
  /-- IRESP, 43_filters.md R170 -/
  | iresp
  /-- SHAPEN, 43_filters.md R172 -/
  | shapen
  /-- TREVCONV, 44_vq.md R181 -/
  | trevconv
  /-- VQSEARCH, 44_vq.md R183 -/
  | vqsearch
  /-- EXCITE, 44_vq.md R190 -/
  | excite
  /-- RINGRD, 20_memory.md R66 -/
  | ringrd
  /-- RINGWR, 20_memory.md R67 -/
  | ringwr
  /-- POSTFILT, 46_postfilter.md R232 -/
  | postfilt
  /-- PCM_IN, 45_controller.md R222 -/
  | pcmIn
  /-- PCM_OUT, 45_controller.md R223 -/
  | pcmOut
  deriving DecidableEq, Repr

/-- A word in one of the three formats (30_encoding.md R88): a command word, the only one the `CMD` port carries; an index
word as its two bytes in wire order, high byte first (20_memory.md R70); or a micro-operation number, which is on no port. -/
inductive CodeWord where
  | cw (w : HalfWord)
  | iw (b0 : Byte) (b1 : Byte)
  | mw (n : Byte)
  deriving DecidableEq, Repr

end Sys2Proof
end

