-- ==== Sys2Proof/Decode.lean ====
section
/-! DEFINITION. Decoding the three formats of 30_encoding.md, total and rejecting by name, and the encoder
beside it. -/

namespace Sys2Proof

/-- Why a word names no instruction. -/
inductive Reject where
  /-- a command word of 30_encoding.md R102 -/
  | illegalCommand
  /-- an index word with `w[15:10] ≠ 0` (30_encoding.md R101) -/
  | indexRange
  /-- a micro-operation number not in 30_encoding.md R100 (R103) -/
  | unassigned
  deriving DecidableEq, Repr

/-- `opc`, bits 15:12 of a command word (30_encoding.md R92). -/
def opcField (w : HalfWord) : BitVec 4 := w.extractLsb' 12 4

/-- `arg`, bits 11:0 of a command word (30_encoding.md R92). -/
def argField (w : HalfWord) : BitVec 12 := w.extractLsb' 0 12

/-- A command without an argument: legal iff `arg = 0` (30_encoding.md R97). -/
def plainCommand (arg : BitVec 12) (i : Instr) : Except Reject Instr :=
  if arg = 0#12 then .ok i else .error .illegalCommand

/-- INIT_DEC: `pf = arg[0]`, and `arg[11:1]` must be 0 (30_encoding.md R97). -/
def initDecCommand (arg : BitVec 12) : Except Reject Instr :=
  if arg.extractLsb' 1 11 = 0#11 then .ok (.initDec (arg.getLsbD 0)) else .error .illegalCommand

/-- Command words (30_encoding.md R98, R102). -/
def decodeCommand (w : HalfWord) : Except Reject Instr :=
  match (opcField w).toNat with
  | 0 => plainCommand (argField w) .nop
  | 1 => plainCommand (argField w) .initEnc
  | 2 => initDecCommand (argField w)
  | 3 => plainCommand (argField w) .encVec
  | 4 => plainCommand (argField w) .decVec
  | 5 => plainCommand (argField w) .finish
  | _ => .error .illegalCommand

/-- The index word of two bytes, `w = (b0 << 8) | b1` (30_encoding.md R94). -/
def assembleIndex (b0 b1 : Byte) : HalfWord := (b0.setWidth 16 <<< 8) ||| b1.setWidth 16

/-- Legal iff `w[15:10] = 0` (30_encoding.md R94). -/
def indexLegal (w : HalfWord) : Bool := w.extractLsb' 10 6 == 0#6

/-- `shape = w[9:3]` (30_encoding.md R94). -/
def shapeField (w : HalfWord) : BitVec 7 := w.extractLsb' 3 7

/-- `gain = w[2:0]` (30_encoding.md R94). -/
def gainField (w : HalfWord) : BitVec 3 := w.extractLsb' 0 3

/-- Index words (30_encoding.md R94, R99, R101). -/
def decodeIndex (b0 b1 : Byte) : Except Reject Instr :=
  let w := assembleIndex b0 b1
  if indexLegal w then .ok (.index (shapeField w).toNat (gainField w).toNat) else .error .indexRange

/-- Micro-operation numbers (30_encoding.md R100, R103). -/
def decodeMicro (n : Byte) : Except Reject Instr :=
  match n.toNat with
  | 0x01 => .ok .hwin
  | 0x02 => .ok .levdur
  | 0x03 => .ok .levdurSyn
  | 0x04 => .ok .bwexp
  | 0x10 => .ok .adaptSyn
  | 0x11 => .ok .adaptGain
  | 0x12 => .ok .adaptWgt
  | 0x13 => .ok .commitSyn
  | 0x14 => .ok .commitGain
  | 0x15 => .ok .commitWgt
  | 0x16 => .ok .sched
  | 0x20 => .ok .predgain
  | 0x21 => .ok .updgain
  | 0x30 => .ok .pwfilt
  | 0x31 => .ok .zresp
  | 0x32 => .ok .memupd
  | 0x33 => .ok .iresp
  | 0x34 => .ok .shapen
  | 0x40 => .ok .trevconv
  | 0x41 => .ok .vqsearch
  | 0x42 => .ok .excite
  | 0x50 => .ok .ringrd
  | 0x51 => .ok .ringwr
  | 0x60 => .ok .postfilt
  | 0x70 => .ok .pcmIn
  | 0x71 => .ok .pcmOut
  | _ => .error .unassigned

/-- The decoder: each format has its own place, and no mode bit changes decoding (30_encoding.md R88). -/
def decode (p : CodeWord) : Except Reject Instr :=
  match p with
  | .cw w => decodeCommand w
  | .iw b0 b1 => decodeIndex b0 b1
  | .mw n => decodeMicro n

/-- The index word of a shape and a gain, `zext_16((shape << 3) | gain)` (30_encoding.md R95). -/
def indexWord (shape gain : Nat) : HalfWord := (BitVec.ofNat 16 shape <<< 3) ||| BitVec.ofNat 16 gain

/-- The two bytes of a word, high byte first (20_memory.md R70). -/
def wordBytes (w : HalfWord) : Byte × Byte := (w.extractLsb' 8 8, w.extractLsb' 0 8)

/-- The encoder, from the tables of 30_encoding.md R89, R98 and R100. -/
def encode (i : Instr) : CodeWord :=
  match i with
  | .nop => .cw 0x0000#16
  | .initEnc => .cw 0x1000#16
  | .initDec pf => .cw (0x2000#16 ||| (BitVec.ofBool pf).setWidth 16)
  | .encVec => .cw 0x3000#16
  | .decVec => .cw 0x4000#16
  | .finish => .cw 0x5000#16
  | .index shape gain => .iw (wordBytes (indexWord shape gain)).1 (wordBytes (indexWord shape gain)).2
  | .hwin => .mw 0x01#8
  | .levdur => .mw 0x02#8
  | .levdurSyn => .mw 0x03#8
  | .bwexp => .mw 0x04#8
  | .adaptSyn => .mw 0x10#8
  | .adaptGain => .mw 0x11#8
  | .adaptWgt => .mw 0x12#8
  | .commitSyn => .mw 0x13#8
  | .commitGain => .mw 0x14#8
  | .commitWgt => .mw 0x15#8
  | .sched => .mw 0x16#8
  | .predgain => .mw 0x20#8
  | .updgain => .mw 0x21#8
  | .pwfilt => .mw 0x30#8
  | .zresp => .mw 0x31#8
  | .memupd => .mw 0x32#8
  | .iresp => .mw 0x33#8
  | .shapen => .mw 0x34#8
  | .trevconv => .mw 0x40#8
  | .vqsearch => .mw 0x41#8
  | .excite => .mw 0x42#8
  | .ringrd => .mw 0x50#8
  | .ringwr => .mw 0x51#8
  | .postfilt => .mw 0x60#8
  | .pcmIn => .mw 0x70#8
  | .pcmOut => .mw 0x71#8

/-- The command word of ENC_VEC (30_encoding.md R98). -/
def encVecWord : HalfWord := 0x3000#16

/-- The bits of a word as spec/opcode_table.json numbers them: the index word's high byte is bits 15:8. -/
def CodeWord.bits (p : CodeWord) : Nat :=
  match p with
  | .cw w => w.toNat
  | .iw b0 b1 => (assembleIndex b0 b1).toNat
  | .mw n => n.toNat

/-- The place a bare table word is meant for. Eight bits are a micro-operation number. Sixteen bits do not say
whether they are a command word or an index word (30_encoding.md R98, R99: the port says it): a legal
command word is taken as a command, any other legal index word as an index word (log 14). -/
def tablePlace (nbits w : Nat) : Option CodeWord :=
  if nbits = 8 then some (.mw (BitVec.ofNat 8 w))
  else if nbits = 16 then
    let h : HalfWord := BitVec.ofNat 16 w
    match decodeCommand h with
    | .ok _ => some (.cw h)
    | .error _ => if indexLegal h then some (.iw (wordBytes h).1 (wordBytes h).2) else some (.cw h)
  else none

/-- The instruction the decoder reads from a table row's bits. -/
def decodeTableWord (nbits w : Nat) : Option Instr :=
  match tablePlace nbits w with
  | some p => (decode p).toOption
  | none => none

end Sys2Proof
end

