-- ==== Sys2Proof/Machine/Arith.lean ====
section
/-! DEFINITION. The notation of 00_scope.md R13 to R18 over any NUM: sums in ascending order, clamp, sat16, array reads
and the shift register. -/

namespace Sys2Proof.Machine

variable {α : Type}

/-- `l[i]`. The rules read inside the bounds only; elsewhere the read answers 0 (log 20). -/
def rd (N : NumOps α) (l : List α) (i : Nat) : α := l.getD i N.zero

/-- `Σ_{i=lo}^{lo+cnt−1} t(i)`, from 0 and in ascending order (00_scope.md R14). -/
def sumFrom (N : NumOps α) (lo cnt : Nat) (t : Nat → α) : α :=
  (List.range' lo cnt).foldl (fun acc i => N.add acc (t i)) N.zero

/-- `n` elements, element `i` being `f i`. -/
def tabulate (n : Nat) (f : Nat → α) : List α := (List.range n).map f

/-- `clamp(x, lo, hi)` (00_scope.md R15). -/
def clamp (N : NumOps α) (x lo hi : α) : α :=
  if N.lt x lo then lo else if N.lt hi x then hi else x

/-- `sat16(n)` (00_scope.md R15). -/
def sat16 (n : Int) : Int := if n < -32768 then -32768 else if 32767 < n then 32767 else n

/-- The shift register of 00_scope.md R18: `v` becomes entry 0, every entry moves up by one, the oldest is
dropped. -/
def push (m : List α) (v : α) : List α := (v :: m).take m.length

/-- `Σ_{i=1}^{n} c[i] · m[i−1]`: filter taps over a shift register (43_filters.md R160). -/
def taps (N : NumOps α) (c m : List α) (n : Nat) : α :=
  sumFrom N 1 n (fun i => N.mul (rd N c i) (rd N m (i - 1)))

/-- A five-step run of `f` over a vector, the state of each step handed to the next. -/
def scan5 {σ β : Type} (f : σ → α → σ × β) (s : σ) (v : Vec5 α) : σ × Vec5 β :=
  let r0 := f s v.v0
  let r1 := f r0.1 v.v1
  let r2 := f r1.1 v.v2
  let r3 := f r2.1 v.v3
  let r4 := f r3.1 v.v4
  (r4.1, ⟨r0.2, r1.2, r2.2, r3.2, r4.2⟩)

/-- Elementwise operations on vectors (45_controller.md R208, lines 5 and 7). -/
def zip5 {β γ : Type} (f : α → β → γ) (x : Vec5 α) (y : Vec5 β) : Vec5 γ :=
  ⟨f x.v0 y.v0, f x.v1 y.v1, f x.v2 y.v2, f x.v3 y.v3, f x.v4 y.v4⟩

/-- `f` on each element. -/
def map5 {β : Type} (f : α → β) (x : Vec5 α) : Vec5 β := ⟨f x.v0, f x.v1, f x.v2, f x.v3, f x.v4⟩

/-- The vector of zeros. -/
def zero5 (N : NumOps α) : Vec5 α := ⟨N.zero, N.zero, N.zero, N.zero, N.zero⟩

end Sys2Proof.Machine
end

