-- ==== Sys2Proof/Machine/FilterKernel.lean ====
section
/-! DEFINITION. The filters of 43_filters.md and the gain predictor of 42_gain_predictor.md as functions over any NUM. -/

namespace Sys2Proof.Machine

variable {α : Type}

/-- The memory of one weighting filter: its last inputs and its last outputs, newest first. -/
structure WMem (α : Type) where
  z : List α
  p : List α
  deriving DecidableEq, Repr

/-- One sample of the weighting filter: `y = (x + z) − p`, then both memories shift (43_filters.md R160, R161). -/
def weightStep (N : NumOps α) (wz wp : List α) (m : WMem α) (x : α) : WMem α × α :=
  let z := taps N wz m.z 10
  let p := taps N wp m.p 10
  let y := N.sub (N.add x z) p
  ({ z := push m.z x, p := push m.p y }, y)

/-- PWFILT: five samples of the weighting filter (43_filters.md R161). -/
def pwfilt (N : NumOps α) (wz wp : List α) (m : WMem α) (inp : Vec5 α) : WMem α × Vec5 α :=
  scan5 (weightStep N wz wp) m inp

/-- The memories of the cascade synthesis filter, weighting filter (10_state.md R38, R39). -/
structure CMem (α : Type) where
  syn : List α
  w : WMem α
  deriving DecidableEq, Repr

/-- One sample of the cascade: `s = x − a`, and the weighting filter fed with the unclamped `s`
(43_filters.md R164, R166). -/
def cascadeStep (N : NumOps α) (A wz wp : List α) (m : CMem α) (x : α) : CMem α × (α × α) :=
  let s := N.sub x (taps N A m.syn 50)
  let r := weightStep N wz wp m.w s
  ({ syn := push m.syn s, w := r.1 }, (s, r.2))

/-- ZRESP on copies of the memories: `(zs, zw)` (43_filters.md R164). -/
def zresp (N : NumOps α) (A wz wp : List α) (m : CMem α) : Vec5 α × Vec5 α :=
  let r := (scan5 (cascadeStep N A wz wp) m (zero5 N)).2
  (map5 Prod.fst r, map5 Prod.snd r)

/-- The clamp of MEMUPD: entries 0 to 4 of the synthesis memory (43_filters.md R166). -/
def clampNewest (N : NumOps α) (lo hi : α) (syn : List α) : List α :=
  (syn.take 5).map (fun x => clamp N x lo hi) ++ syn.drop 5

/-- MEMUPD: five samples of the cascade, the clamp, and `sq[k] = SYN_MEM[4−k]` (43_filters.md R166). -/
def memupd (N : NumOps α) (A wz wp : List α) (lo hi : α) (m : CMem α) (et : Vec5 α) : CMem α × Vec5 α :=
  let r := (scan5 (cascadeStep N A wz wp) m et).1
  let syn := clampNewest N lo hi r.syn
  ({ r with syn := syn }, Vec5.ofFn (fun k => rd N syn (4 - k)))

/-- The responses of the two filters to a unit impulse so far: `s` and `h` (43_filters.md R170). -/
structure ImpulseState (α : Type) where
  s : List α
  h : List α
  deriving DecidableEq, Repr

/-- Sample `k` of IRESP (43_filters.md R170). -/
def irespStep (N : NumOps α) (A wz wp : List α) (st : ImpulseState α) (k : Nat) : ImpulseState α :=
  let a := sumFrom N 1 k (fun i => N.mul (rd N A i) (rd N st.s (k - i)))
  let s := N.sub (if k = 0 then N.one else N.zero) a
  let z := sumFrom N 1 k (fun i => N.mul (rd N wz i) (rd N st.s (k - i)))
  let p := sumFrom N 1 k (fun i => N.mul (rd N wp i) (rd N st.h (k - i)))
  { s := st.s ++ [s], h := st.h ++ [N.sub (N.add s z) p] }

/-- The five samples of both impulse responses. -/
def impulse (N : NumOps α) (A wz wp : List α) : ImpulseState α :=
  (List.range 5).foldl (irespStep N A wz wp) { s := [], h := [] }

/-- IRESP: the impulse response of the cascade (43_filters.md R170). -/
def iresp (N : NumOps α) (A wz wp : List α) : Vec5 α := Vec5.ofFn (rd N (impulse N A wz wp).h)

/-- Codeword `y` filtered by the cascade from zero state: `c[k] = Σ_{i=0}^{k} H[k−i]·y[i]` (43_filters.md R172). -/
def filterShape (N : NumOps α) (H : Vec5 α) (y : Nat → α) (k : Nat) : α :=
  sumFrom N 0 (k + 1) (fun i => N.mul (H.get (k - i)) (y i))

/-- The energy `Σ_{k=0}^{4} c[k]·c[k]` of a filtered codeword (43_filters.md R172). -/
def shapeEnergy (N : NumOps α) (H : Vec5 α) (y : Nat → α) : α :=
  let c := Vec5.ofFn (filterShape N H y)
  sumFrom N 0 5 (fun k => N.mul (c.get k) (c.get k))

/-- SHAPEN: the energies of the 128 codewords (43_filters.md R172). -/
def shapen (N : NumOps α) (H : Vec5 α) (shape : Nat → Nat → α) : List α :=
  tabulate 128 (fun j => shapeEnergy N H (shape j))

/-- The predicted log-gain before the clamp: `db = GOFF − Σ_{i=1}^{10} GP_CUR[i]·GSTATE[i−1]`
(42_gain_predictor.md R151). -/
def predictedDb (N : NumOps α) (goff : α) (gp gstate : List α) : α := N.sub goff (taps N gp gstate 10)

/-- PREDGAIN: the clamp to [0, 60] dB and `pow10(0.05·db)` (42_gain_predictor.md R151). -/
def predgain (N : NumOps α) (goff : α) (gp gstate : List α) : α :=
  N.pow10 (N.mul N.twentieth (clamp N (predictedDb N goff gp gstate) N.zero (N.ofInt 60)))

/-- The mean square of a vector with its floor (42_gain_predictor.md R153, R154). -/
def meanSquare (N : NumOps α) (floor : α) (et : Vec5 α) : α :=
  let ms := N.div (sumFrom N 0 5 (fun k => N.mul (et.get k) (et.get k))) (N.ofInt 5)
  if N.lt ms floor then floor else ms

/-- The log-gain UPDGAIN pushes: `lg = 10·log10(ms) − GOFF` (42_gain_predictor.md R154). -/
def logGain (N : NumOps α) (goff floor : α) (et : Vec5 α) : α :=
  N.sub (N.mul N.ten (N.log10 (meanSquare N floor et))) goff

end Sys2Proof.Machine
end

