-- ==== Sys2Proof/Machine/LpcKernel.lean ====
section
/-! DEFINITION. The linear prediction core of 40_lpc_core.md as functions over any NUM: hybrid window,
Levinson-Durbin, bandwidth expansion. -/

namespace Sys2Proof.Machine

variable {α : Type}

/-- What HWIN returns and what it leaves in its history and its recursive part. -/
structure HwinResult (α : Type) where
  R : List α
  SB : List α
  REXP : List α
  deriving DecidableEq, Repr

/-- The lag product sum `Σ_{n=lo}^{lo+cnt−1} ws[n]·ws[n−i]` (40_lpc_core.md R111). -/
def lagSum (N : NumOps α) (ws : List α) (lo cnt i : Nat) : α :=
  sumFrom N lo cnt (fun n => N.mul (rd N ws n) (rd N ws (n - i)))

/-- `HWIN(M, L, N, SB, new, WN, REXP, d)` (40_lpc_core.md R110, R111); the non-recursive size is `K`. -/
def hwin (N : NumOps α) (M L K : Nat) (SB new : List α) (WN : Nat → α) (REXP : List α) (d wncf : α) :
    HwinResult α :=
  let n3 := M + L + K
  let sb := tabulate n3 (fun n => if n < n3 - L then rd N SB (n + L) else rd N new (n - (n3 - L)))
  let ws := tabulate n3 (fun n => N.mul (rd N sb n) (WN n))
  let rexp := tabulate (M + 1) (fun i => N.add (N.mul d (rd N REXP i)) (lagSum N ws M L i))
  let r := tabulate (M + 1) (fun i => N.add (rd N rexp i) (lagSum N ws (M + L) K i))
  { R := tabulate (M + 1) (fun i => if i = 0 then N.mul (rd N r 0) wncf else rd N r i), SB := sb, REXP := rexp }

/-- The Levinson-Durbin recursion after some order: the coefficients `a[0..order]`, the residual energy
`alpha`, the first reflection coefficient `k1`, and `a10`, the coefficients as they stood after order 10. -/
structure LevState (α : Type) where
  a : List α
  alpha : α
  k1 : α
  a10 : List α
  deriving DecidableEq, Repr

/-- The entry tests and order 1 of LEVDUR (40_lpc_core.md R117). -/
def levStart (N : NumOps α) (R : List α) (M : Nat) : Option (LevState α) :=
  if N.eq (rd N R M) N.zero then none
  else if N.le (rd N R 0) N.zero then none
  else
    let rc := N.neg (N.div (rd N R 1) (rd N R 0))
    let alpha := N.add (rd N R 0) (N.mul (rd N R 1) rc)
    if N.le alpha N.zero then none
    else some { a := [N.one, rc], alpha := alpha, k1 := rc, a10 := [] }

/-- The sum `s = Σ_{k=0}^{m−1} a[k]·R[m−k]` of order `m` (40_lpc_core.md R117). -/
def levSum (N : NumOps α) (R a : List α) (m : Nat) : α :=
  sumFrom N 0 m (fun k => N.mul (rd N a k) (rd N R (m - k)))

/-- The symmetric update of order `m`: every `a[k]`, `1 ≤ k < m`, becomes `a[k] + rc·a[m−k]` of the old
values, and `a[m] = rc` (40_lpc_core.md R117). -/
def levUpdate (N : NumOps α) (a : List α) (rc : α) (m : Nat) : List α :=
  tabulate (m + 1) (fun k =>
    if k = 0 then rd N a 0 else if k = m then rc else N.add (rd N a k) (N.mul rc (rd N a (m - k))))

/-- Order `m ≥ 2` of LEVDUR; `none` is the failure of its `alpha ≤ 0` test (40_lpc_core.md R117, R119). -/
def levStep (N : NumOps α) (R : List α) (st : LevState α) (m : Nat) : Option (LevState α) :=
  let s := levSum N R st.a m
  let rc := N.neg (N.div s st.alpha)
  let a := levUpdate N st.a rc m
  let alpha := N.add st.alpha (N.mul rc s)
  if N.le alpha N.zero then none
  else some { a := a, alpha := alpha, k1 := st.k1, a10 := if m = 10 then a else st.a10 }

/-- The whole recursion of order `M ≥ 1`. -/
def levRun (N : NumOps α) (R : List α) (M : Nat) : Option (LevState α) :=
  match levStart N R M with
  | none => none
  | some st => (List.range' 2 (M - 1)).foldlM (levStep N R) st

/-- `LEVDUR(R[0..M], M)`: the coefficients on success, `none` on failure (40_lpc_core.md R116). -/
def levdur (N : NumOps α) (R : List α) (M : Nat) : Option (List α) := (levRun N R M).map (·.a)

/-- The three results of LEVDUR_SYN on success (40_lpc_core.md R119). -/
structure LevSyn (α : Type) where
  a : List α
  k1 : α
  a10 : List α
  deriving DecidableEq, Repr

/-- `LEVDUR_SYN(R[0..50])` (40_lpc_core.md R119): LEVDUR of order 50 with the two cached results. -/
def levdurSyn (N : NumOps α) (R : List α) : Option (LevSyn α) :=
  (levRun N R 50).map (fun st => { a := st.a, k1 := st.k1, a10 := st.a10 })

/-- `BWEXP(a[0..M], dv[0..M], M)` (40_lpc_core.md R122). -/
def bwexp (N : NumOps α) (a : List α) (dv : Nat → α) (M : Nat) : List α :=
  tabulate (M + 1) (fun i => N.mul (rd N a i) (dv i))

end Sys2Proof.Machine
end

