-- ==== Sys2Proof/Config.lean ====
section
/-! DEFINITION. The configuration record CFG of 00_scope.md R11, and the open parameters of this hardware as
opaque constants. The decided parameters and the constraints of R11 are applied in Machine/Params.lean. -/

namespace Sys2Proof

/-- The configuration record CFG (00_scope.md R11): everything the source leaves to the implementation.
A table is given by its entries; index 0 of a window table is the oldest sample. -/
structure Cfg (α : Type) where
  num : NumOps α
  /-- NONR, NONRW, NONRLG: the non-recursive spans -/
  nonr : Nat
  nonrw : Nat
  nonrlg : Nat
  /-- WN_SYN, WN_W, WN_G: the window tables -/
  wnSyn : Nat → α
  wnW : Nat → α
  wnG : Nat → α
  /-- DEC_SYN, DEC_W, DEC_G: the decays of the recursive parts -/
  decSyn : α
  decW : α
  decG : α
  /-- WNCF: the white-noise correction factor -/
  wncf : α
  /-- BW_SYN, BW_WZ, BW_WP, BW_G: the bandwidth-expansion tables -/
  bwSyn : Nat → α
  bwWz : Nat → α
  bwWp : Nat → α
  bwG : Nat → α
  /-- GOFF: the log-gain reference level -/
  goff : α
  /-- MS_FLOOR: the floor of the mean square -/
  msFloor : α
  /-- CB_SHAPE[j][k] -/
  cbShape : Nat → Nat → α
  /-- CB_GAIN[g] -/
  cbGain : Nat → α
  stateMin : α
  stateMax : α
  phaseInit : Phase
  aInit : List α
  wzInit : List α
  wpInit : List α
  gpInit : List α
  /-- PF.init -/
  pfInit : PfState α
  /-- PF.step: state, sq, QSYN, QEXC, VX, PF_A10, PF_K1 (46_postfilter.md R231) -/
  pfStep : PfState α → Vec5 α → List α → List α → Fin 12 → List α → α → PfState α × Vec5 α

/-- What `PF.step` is given beside its state (46_postfilter.md R231). -/
structure PfInput (α : Type) where
  sq : Vec5 α
  qsyn : List α
  qexc : List α
  vx : Fin 12
  a10 : List α
  k1 : α

/-- What 46_postfilter.md R234 to R238 call "not settled" of the postfilter's four stages. A signal is given by age: entry 0
is the newest sample of the current vector, entry 4 its oldest. -/
structure PfOpen (α : Type) where
  /-- what the residual is computed from, and how (R231, R234), of all arguments of `PF.step` -/
  residual : PfState α → PfInput α → Nat → α
  /-- the history after the vector, of the same arguments -/
  history : PfState α → PfInput α → Nat
  /-- what the residual passes through before every fourth sample is kept (R234) -/
  prefilter : (Nat → α) → Nat → α
  /-- where the analysis window on the decimated signal lies: its least age, in decimated samples -/
  coarseStart : Nat
  /-- the length of the analysis window on the decimated signal (R234) -/
  coarseWindow : Nat
  /-- where the analysis window at full resolution lies: its least age -/
  fineStart : Nat
  /-- the length of the analysis window at full resolution (R234) -/
  fineWindow : Nat
  /-- the normalisation: correlation, energy of the window, energy of the delayed window (R234) -/
  normalise : α → α → α → α
  /-- whether the second of two lags of equal value is taken instead of the first -/
  prefers : Nat → Nat → Bool
  /-- the refinement range (R234) -/
  refineRange : Nat
  /-- whether the second period is a jump from the first (R234) -/
  jump : Nat → Nat → Bool
  /-- how far from the previous period a rejected jump may still move -/
  holdRange : Nat
  /-- the "normalized tap" of a period (R234), of the residual and the period -/
  normalizedTap : (Nat → α) → Nat → α
  /-- whether the first normalized tap "clearly dominates" the second (R234); the second is that of the held period (log 21) -/
  dominates : α → α → Bool
  /-- over how many ages a residual has to repeat to be a periodic one (R239); at least PMAX, one whole period -/
  periodicSpan : Nat
  /-- what the delayed copy is added to (R236), of `sq` and the residual -/
  combInput : Vec5 α → (Nat → α) → Vec5 α
  /-- the tap's formula and limits (R236), of the residual and the period -/
  combTap : (Nat → α) → Nat → α
  /-- the scaling of the sum (R236), of the tap -/
  combScale : α → α
  /-- the scale factor of the zeros (R237) -/
  zeroFactor : α
  /-- the scale factor of the poles (R237) -/
  poleFactor : α
  /-- the tilt factor (R237) -/
  tiltFactor : α
  /-- whether energies are compared, or absolute sums (R238) -/
  byEnergy : Bool
  /-- the gain when the filtered vector is zero (R238), of the energy or magnitude of `sq` -/
  zeroGain : α → α
  /-- the smoothing factor (R238) -/
  smoothing : α
  deriving Inhabited

/-! The open parameters (92_eei_decisions.md, "Parameters left open"): each is a constant of which nothing
can be proved, so a claim holds for every value (log 4). -/

/-- NONR, open (R11). -/
opaque Config.nonr : Nat
/-- NONRW, open (R11). -/
opaque Config.nonrw : Nat
/-- NONRLG, open (R11). -/
opaque Config.nonrlg : Nat
/-- WN_SYN, open (R11). -/
opaque Config.wnSyn : Nat → B32
/-- WN_W, open (R11). -/
opaque Config.wnW : Nat → B32
/-- WN_G, open (R11). -/
opaque Config.wnG : Nat → B32
/-- DEC_SYN, open (R11). -/
opaque Config.decSyn : B32
/-- DEC_W, open (R11). -/
opaque Config.decW : B32
/-- DEC_G, open (R11). -/
opaque Config.decG : B32
/-- WNCF, open (R11, 92 D38). -/
opaque Config.wncf : B32
/-- BW_SYN from index 1 on, open (R11: index 0 is 1). -/
opaque Config.bwSyn : Nat → B32
/-- BW_WZ from index 1 on, open (R11: index 0 is 1). -/
opaque Config.bwWz : Nat → B32
/-- BW_WP from index 1 on, open (R11: index 0 is 1). -/
opaque Config.bwWp : Nat → B32
/-- BW_G from index 1 on, open (R11: index 0 is 1). -/
opaque Config.bwG : Nat → B32
/-- GOFF, open (R11). -/
opaque Config.goff : B32
/-- CB_SHAPE, open (R11). -/
opaque Config.cbShape : Nat → Nat → B32
/-- CB_GAIN[0..3], the four magnitudes, open up to their order (R11). -/
opaque Config.cbMagnitude : Nat → B32
/-- STATE_MIN, open up to `STATE_MIN ≤ 0` (R11). -/
opaque Config.stateMin : B32
/-- STATE_MAX, open up to `0 ≤ STATE_MAX` (R11). -/
opaque Config.stateMax : B32
/-- log10, uninterpreted (00_scope.md R14, 92 D1). -/
opaque Config.log10 : B32 → B32
/-- pow10, uninterpreted (00_scope.md R14, 92 D1). -/
opaque Config.pow10 : B32 → B32
/-- FREE VALUE: toIntRound of a NUM that is no finite number; no rule states it (log 3). -/
opaque Config.toIntNotFinite : B32 → Int
/-- What is open of the postfilter's stages: values of which nothing can be proved (46_postfilter.md R231, R234 to R238,
log 8). -/
opaque Config.pfOpen : PfOpen B32
/-- PF.init, open up to its constraint (46_postfilter.md R231, R235). -/
opaque Config.pfInit : PfState B32

end Sys2Proof
end

