-- ==== Sys2Proof/Machine/Binary32.lean ====
section
/-! DEFINITION. The decided NUM: IEEE 754 binary32 with round to nearest, ties to even, for add, sub, mul and
div (00_scope.md R14, 92 D1). A finite number is a whole multiple of 2^-149, so every operation is computed
exactly over the integers and rounded once. -/

namespace Sys2Proof.Machine

/-- The positive zero. -/
def b32Zero : B32 := .fin false 0 0

/-- The magnitude of a finite number in units of 2^-149. -/
def units (e : Fin 255) (f : Fin 8388608) : Nat :=
  if e.val = 0 then f.val else (8388608 + f.val) * 2 ^ (e.val - 1)

/-- The signed value of a finite number in units of 2^-149. -/
def signedUnits (neg : Bool) (e : Fin 255) (f : Fin 8388608) : Int :=
  if neg then -(units e f : Int) else (units e f : Int)

/-- `n / d` rounded to the nearest integer, ties to even (`d > 0`). -/
def divNearestEven (n d : Nat) : Nat :=
  if 2 * (n % d) > d ∨ (2 * (n % d) = d ∧ (n / d) % 2 = 1) then n / d + 1 else n / d

/-- A finite number or, past the largest one, an infinity: significand `m ≤ 2^24` at scale `2^sh` units. -/
def pack (neg : Bool) (m sh : Nat) : B32 :=
  let m' := if m = 16777216 then 8388608 else m
  let sh' := if m = 16777216 then sh + 1 else sh
  let e := if m' < 8388608 then 0 else sh' + 1
  if h : e < 255 then .fin neg ⟨e, h⟩ ⟨m' % 8388608, Nat.mod_lt _ (by decide)⟩ else .inf neg

/-- The binary32 number nearest to `n / d` units of 2^-149, ties to even, with the given sign (`d > 0`). -/
def roundUnits (neg : Bool) (n d : Nat) : B32 :=
  let sh := (n / d).log2 - 23
  pack neg (divNearestEven n (d * 2 ^ sh)) sh

/-- A signed whole number of units, rounded. -/
def roundSigned (z : Int) : B32 := roundUnits (decide (z < 0)) z.natAbs 1

/-- The NUM nearest to the rational `z / d` (`d > 0`): how the literals of the rules are read (log 2). -/
def b32OfRatio (z : Int) (d : Nat) : B32 := roundUnits (decide (z < 0)) (z.natAbs * 2 ^ 149) d

/-- `ofInt` (00_scope.md R14). -/
def b32OfInt (z : Int) : B32 := b32OfRatio z 1

/-- IEEE 754 addition. An exact sum of zero is `+0` unless both addends are negative zeros. -/
def b32Add (a b : B32) : B32 :=
  match a, b with
  | .nan, _ => .nan
  | _, .nan => .nan
  | .inf na, .inf nb => if na = nb then .inf na else .nan
  | .inf na, .fin _ _ _ => .inf na
  | .fin _ _ _, .inf nb => .inf nb
  | .fin na ea fa, .fin nb eb fb =>
    let z := signedUnits na ea fa + signedUnits nb eb fb
    if z = 0 then .fin (na && nb) 0 0 else roundSigned z

/-- The sign bit turned over. -/
def b32Neg (a : B32) : B32 :=
  match a with
  | .nan => .nan
  | .inf na => .inf (!na)
  | .fin na ea fa => .fin (!na) ea fa

/-- The sign bit cleared. -/
def b32Abs (a : B32) : B32 :=
  match a with
  | .nan => .nan
  | .inf _ => .inf false
  | .fin _ ea fa => .fin false ea fa

/-- IEEE 754 subtraction, `a + (−b)`. -/
def b32Sub (a b : B32) : B32 := b32Add a (b32Neg b)

/-- IEEE 754 multiplication. -/
def b32Mul (a b : B32) : B32 :=
  match a, b with
  | .nan, _ => .nan
  | _, .nan => .nan
  | .inf na, .inf nb => .inf (na != nb)
  | .inf na, .fin nb eb fb => if units eb fb = 0 then .nan else .inf (na != nb)
  | .fin na ea fa, .inf nb => if units ea fa = 0 then .nan else .inf (na != nb)
  | .fin na ea fa, .fin nb eb fb => roundUnits (na != nb) (units ea fa * units eb fb) (2 ^ 149)

/-- IEEE 754 division. -/
def b32Div (a b : B32) : B32 :=
  match a, b with
  | .nan, _ => .nan
  | _, .nan => .nan
  | .inf _, .inf _ => .nan
  | .inf na, .fin nb _ _ => .inf (na != nb)
  | .fin na _ _, .inf nb => .fin (na != nb) 0 0
  | .fin na ea fa, .fin nb eb fb =>
    if units eb fb = 0 then (if units ea fa = 0 then .nan else .inf (na != nb))
    else roundUnits (na != nb) (units ea fa * 2 ^ 149) (units eb fb)

/-- A key that orders the numbers (both zeros at 0; the infinities beyond every finite number). -/
def b32Key (a : B32) : Int :=
  match a with
  | .nan => 0
  | .inf na => if na then -(2 ^ 300) else 2 ^ 300
  | .fin na ea fa => signedUnits na ea fa

/-- Is it a number? -/
def b32IsNumber (a : B32) : Bool :=
  match a with
  | .nan => false
  | .inf _ => true
  | .fin _ _ _ => true

/-- Is it a finite number? -/
def b32IsFinite (a : B32) : Bool :=
  match a with
  | .nan => false
  | .inf _ => false
  | .fin _ _ _ => true

/-- `a < b`; false where one of them is NaN (93 U7). -/
def b32Lt (a b : B32) : Bool := b32IsNumber a && b32IsNumber b && decide (b32Key a < b32Key b)

/-- `a ≤ b`; false where one of them is NaN (93 U7). -/
def b32Le (a b : B32) : Bool := b32IsNumber a && b32IsNumber b && decide (b32Key a ≤ b32Key b)

/-- `a = b` as numbers; false where one of them is NaN, and `−0 = +0`. -/
def b32Eq (a b : B32) : Bool := b32IsNumber a && b32IsNumber b && decide (b32Key a = b32Key b)

/-- PCM_ROUND: nearest integer, ties to even (45_controller.md R223, 92 D29). For a NaN or an infinity no rule
states an integer: a free value (log 3). -/
def b32ToIntRound (a : B32) : Int :=
  match a with
  | .fin na ea fa =>
    let m : Int := divNearestEven (units ea fa) (2 ^ 149)
    if na then -m else m
  | .nan => Config.toIntNotFinite .nan
  | .inf na => Config.toIntNotFinite (.inf na)

end Sys2Proof.Machine
end

