-- ==== Sys2Proof/Machine/PostfilterKernel.lean ====
section
/-! DEFINITION. The postfilter's four stages (46_postfilter.md R234 to R238) as functions over any NUM: what the rules settle
is written here, what they leave open is a field of PfOpen (log 8). The order of the operations inside a stage, which no rule
gives, is the model's choice (log 21). -/

namespace Sys2Proof.Machine

variable {α : Type}

/-! ## Stage 1: pitch extraction (R234, R235, R239) -/

/-- PMIN (46_postfilter.md R234, R235). -/
def pitchMin : Nat := 20

/-- PMAX (46_postfilter.md R234, R235). -/
def pitchMax : Nat := 140

/-- DECIM (46_postfilter.md R234). -/
def decimation : Nat := 4

/-- A period brought into `[PMIN, PMAX]`. -/
def clampPeriod (p : Nat) : Nat := max pitchMin (min pitchMax p)

/-- Every DECIM-th sample of the residual (R234). -/
def decimate (P : PfOpen α) (r : Nat → α) (j : Nat) : α := P.prefilter r (decimation * j)

/-- The correlation of the window of ages `start .. start+w−1` with its copy delayed by `lag`. -/
def windowCorrelation (N : NumOps α) (x : Nat → α) (start w lag : Nat) : α :=
  sumFrom N start w (fun n => N.mul (x n) (x (n + lag)))

/-- The energy of the window of ages `start .. start+w−1` delayed by `lag`. -/
def windowEnergy (N : NumOps α) (x : Nat → α) (start w lag : Nat) : α :=
  sumFrom N start w (fun n => N.mul (x (n + lag)) (x (n + lag)))

/-- The normalised autocorrelation at `lag`: an open function of the correlation and the two energies. -/
def autocorrelation (N : NumOps α) (P : PfOpen α) (x : Nat → α) (start w lag : Nat) : α :=
  P.normalise (windowCorrelation N x start w lag) (windowEnergy N x start w 0) (windowEnergy N x start w lag)

/-- The better of two lags. Which of two of equal value is taken is open (log 8). No rule says which is taken where a value is
no number: `best` is, the model's choice (log 21). -/
def betterLag (N : NumOps α) (prefers : Nat → Nat → Bool) (value : Nat → α) (best lag : Nat) : Nat :=
  if N.lt (value best) (value lag) || (N.eq (value best) (value lag) && prefers best lag) then lag else best

/-- The lag of greatest value among `first` and `rest`, in that order. Where a value is no number, which no rule speaks of, the
order decides: at `first` it is kept, later it is passed over (log 21). -/
def bestLag (N : NumOps α) (prefers : Nat → Nat → Bool) (value : Nat → α) (first : Nat) (rest : List Nat) : Nat :=
  rest.foldl (betterLag N prefers value) first

/-- The coarse period: the decimated lag, 5 to 35, that maximises the normalised autocorrelation of the decimated residual,
at full rate (R234, R235). -/
def coarsePeriod (N : NumOps α) (P : PfOpen α) (r : Nat → α) : Nat :=
  decimation * bestLag N P.prefers (autocorrelation N P (decimate P r) P.coarseStart P.coarseWindow) (pitchMin / decimation)
    (List.range' (pitchMin / decimation) (pitchMax / decimation - pitchMin / decimation + 1))

/-- The periods of `[PMIN, PMAX]` within `range` of `p`. -/
def periodsNear (p range : Nat) : List Nat :=
  (List.range' pitchMin (pitchMax - pitchMin + 1)).filter (fun q => decide (q ≤ p + range) && decide (p ≤ q + range))

/-- The period near `p` that maximises the normalised autocorrelation at full resolution. -/
def periodNear (N : NumOps α) (P : PfOpen α) (r : Nat → α) (range p : Nat) : Nat :=
  bestLag N P.prefers (autocorrelation N P r P.fineStart P.fineWindow) p (periodsNear p range)

/-- The period tracked: the coarse one refined at full resolution; a jump from the previous period is rejected unless the new
period's normalized tap clearly dominates (R234). Dominates which tap, the rule does not say: that of the held period is the
model's choice (log 21). -/
def trackPitch (N : NumOps α) (P : PfOpen α) (r : Nat → α) (previous : Nat) : Nat :=
  let new := periodNear N P r P.refineRange (coarsePeriod N P r)
  let held := periodNear N P r P.holdRange (clampPeriod previous)
  if P.jump previous new && !P.dominates (P.normalizedTap r new) (P.normalizedTap r held) then held else new

/-- Does the residual repeat after `q` samples? -/
def repeatsAfter (N : NumOps α) (P : PfOpen α) (r : Nat → α) (q : Nat) : Bool :=
  (List.range (max pitchMax P.periodicSpan)).all (fun n => N.eq (r n) (r (n + q)))

/-- The least of `q, q+1, …, q+count−1` that has a property. -/
def leastFrom (p : Nat → Bool) : (count q : Nat) → Option Nat
  | 0, _ => none
  | count + 1, q => if p q then some q else leastFrom p count (q + 1)

/-- The "known period" of a periodic residual (R239): the least number of samples it repeats after, where that is in
`[PMIN, PMAX]`. -/
def knownPeriod (N : NumOps α) (P : PfOpen α) (r : Nat → α) : Option Nat :=
  (leastFrom (repeatsAfter N P r) pitchMax 1).filter (fun q => decide (pitchMin ≤ q))

/-- Within `±DECIM` samples of each other (R239). -/
def withinDecim (p q : Nat) : Bool := decide (q ≤ p + decimation) && decide (p ≤ q + decimation)

/-- The pitch period (R234), brought under the property R239 asks of every instance: on a periodic residual it is within DECIM
of the known period. A period that is, is taken as it is; the known period in its place is only a witness that such a period
exists (log 22). -/
def extractPitch (N : NumOps α) (P : PfOpen α) (r : Nat → α) (previous : Nat) : Nat :=
  let found := trackPitch N P r previous
  match knownPeriod N P r with
  | some p => if withinDecim p found then found else p
  | none => found

/-! ## Stage 2: the long-term filter (R236) -/

/-- A single-tap comb: a copy of the residual delayed by the period, weighted by the tap, added and scaled. Sample `k` of the
vector has age `4 − k`. -/
def combFilter (N : NumOps α) (P : PfOpen α) (sq : Vec5 α) (r : Nat → α) (period : Nat) : Vec5 α :=
  let tap := P.combTap r period
  Vec5.ofFn (fun k => N.mul (P.combScale tap) (N.add ((P.combInput sq r).get k) (N.mul tap (r (4 - k + period)))))

/-! ## Stage 3: the short-term filter (R237) -/

/-- `c^i`, by repeated multiplication from 1. -/
def geometric (N : NumOps α) (c : α) (i : Nat) : α := (List.range i).foldl (fun acc _ => N.mul acc c) N.one

/-- The order-10 filter with `PF_A10` scaled by one geometric factor for its zeros and one for its poles (R237). -/
def shortTermFilter (N : NumOps α) (P : PfOpen α) (a10 : List α) (m : WMem α) (u : Vec5 α) : WMem α × Vec5 α :=
  pwfilt N (bwexp N a10 (geometric N P.zeroFactor) 10) (bwexp N a10 (geometric N P.poleFactor) 10) m u

/-- The first-order tilt term, its factor times `PF_K1` (R237); `before` is the sample before the vector. -/
def tiltFilter (N : NumOps α) (P : PfOpen α) (k1 before : α) (y : Vec5 α) : Vec5 α :=
  Vec5.ofFn (fun k =>
    N.add (y.get k) (N.mul (N.mul P.tiltFactor k1) (if k = 0 then before else y.get (k - 1))))

/-! ## Stage 4: the automatic gain control (R238) -/

/-- The energy of a vector, or its magnitude. -/
def vectorLevel (N : NumOps α) (P : PfOpen α) (v : Vec5 α) : α :=
  sumFrom N 0 5 (fun k => if P.byEnergy then N.mul (v.get k) (v.get k) else N.abs (v.get k))

/-- The gain of the vector: the level of `sq` over that of the filtered vector; open where that is zero. -/
def vectorGain (N : NumOps α) (P : PfOpen α) (sq filtered : Vec5 α) : α :=
  if N.eq (vectorLevel N P filtered) N.zero then P.zeroGain (vectorLevel N P sq)
  else N.div (vectorLevel N P sq) (vectorLevel N P filtered)

/-- One sample of the smoothing recursion: the new gain, and the sample times it. -/
def smoothGain (N : NumOps α) (P : PfOpen α) (target : α) (old x : α) : α × α :=
  let new := N.add (N.mul P.smoothing old) (N.mul (N.sub N.one P.smoothing) target)
  (new, N.mul new x)

/-! ## The whole postfilter -/

/-- `PF.step` (46_postfilter.md R231): the four stages in their order, of exactly the arguments of the rule. -/
def postfilterStep (N : NumOps α) (P : PfOpen α) (st : PfState α) (sq : Vec5 α) (qsyn qexc : List α) (vx : Fin 12)
    (a10 : List α) (k1 : α) : PfState α × Vec5 α :=
  let input : PfInput α := { sq := sq, qsyn := qsyn, qexc := qexc, vx := vx, a10 := a10, k1 := k1 }
  let r := P.residual st input
  let period := extractPitch N P r st.period
  let y := shortTermFilter N P a10 { z := st.z, p := st.p } (combFilter N P sq r period)
  let filtered := tiltFilter N P k1 (rd N st.p 0) y.2
  let out := scan5 (smoothGain N P (vectorGain N P sq filtered)) st.gain filtered
  ({ period := period, z := y.1.z, p := y.1.p, gain := out.1
     history := P.history st input }, out.2)

end Sys2Proof.Machine
end

