-- ==== Sys2Proof/Machine/Params.lean ====
section
/-! DEFINITION. The configuration of this hardware: the decided NUM, the decided parameters, and the open ones of
Config.lean brought under the constraints of 00_scope.md R11. A constraint is met by construction: an open constant
that meets it is taken as it is, so every configuration of the spec is one of the values the constants may have, and
a value outside the spec (93 U4) is none (log 4). -/

namespace Sys2Proof.Machine

/-- An open table entry or constant: a finite number (log 5). -/
def finiteOr0 (x : B32) : B32 := if b32IsFinite x then x else b32Zero

/-- A decay table: entry 0 is 1 (00_scope.md R11, 40_lpc_core.md R122). -/
def decayTable (t : Nat → B32) (i : Nat) : B32 := if i = 0 then b32OfInt 1 else finiteOr0 (t i)

/-- Do four magnitudes meet `0 < m0 < m1 < m2 < m3` (00_scope.md R11)? -/
def magnitudesOk (m : Nat → B32) : Bool :=
  b32Lt b32Zero (m 0) && b32Lt (m 0) (m 1) && b32Lt (m 1) (m 2) && b32Lt (m 2) (m 3) && b32IsFinite (m 3)

/-- The four magnitudes, in their constraint; the second branch is only a witness that such values exist. -/
def magnitude (l : Nat) : B32 :=
  if magnitudesOk Config.cbMagnitude then Config.cbMagnitude l else b32OfInt ((l : Int) + 1)

/-- `CB_GAIN[0..3]` are the magnitudes and `CB_GAIN[g+4] = −CB_GAIN[g]` (00_scope.md R11). -/
def gainTable (g : Nat) : B32 := if g < 4 then magnitude g else b32Neg (magnitude (g - 4))

/-- `STATE_MIN ≤ 0` (00_scope.md R11). -/
def stateMin : B32 :=
  if b32Le Config.stateMin b32Zero && b32IsFinite Config.stateMin then Config.stateMin else b32Zero

/-- `0 ≤ STATE_MAX` (00_scope.md R11). -/
def stateMax : B32 :=
  if b32Le b32Zero Config.stateMax && b32IsFinite Config.stateMax then Config.stateMax else b32Zero

/-- log10 with its named property `log10(1) = 0` (42_gain_predictor.md R155, 93 U8). -/
def log10 (x : B32) : B32 := if b32Eq x (b32OfInt 1) then b32Zero else Config.log10 x

/-- Does `y` meet the named properties of `pow10(x)`: `y > 0`, and `1 ≤ y ≤ 1000` where `0 ≤ x ≤ 3`
(42_gain_predictor.md R152, 93 U8)? -/
def pow10Ok (x y : B32) : Bool :=
  b32Lt b32Zero y
    && (!(b32Le b32Zero x && b32Le x (b32OfInt 3)) || (b32Le (b32OfInt 1) y && b32Le y (b32OfInt 1000)))

/-- pow10 with its named properties at every number `x`; the second branch is only a witness that such a value
exists. Of a NaN nothing is asked. -/
def pow10 (x : B32) : B32 :=
  if !b32IsNumber x || pow10Ok x (Config.pow10 x) then Config.pow10 x else b32OfInt 1

/-- The decided NUM (00_scope.md R14, 92 D1). -/
def binary32 : NumOps B32 where
  add := b32Add
  sub := b32Sub
  mul := b32Mul
  div := b32Div
  neg := b32Neg
  abs := b32Abs
  lt := b32Lt
  le := b32Le
  eq := b32Eq
  zero := b32Zero
  one := b32OfInt 1
  two := b32OfInt 2
  ten := b32OfInt 10
  twentieth := b32OfRatio 1 20
  inScale := b32OfRatio 1 8
  ofInt := b32OfInt
  log10 := log10
  pow10 := pow10
  toIntRound := b32ToIntRound

/-- `[1, 0, …, 0]` with `n` zeros (10_state.md R56). -/
def identitySet (n : Nat) : List B32 := b32OfInt 1 :: List.replicate n b32Zero

/-- PF.init: open values, the period in `[PMIN, PMAX]` (46_postfilter.md R235) and the two memories of the order-10 filter
ten long (R237). -/
def pfInit : PfState B32 where
  period := clampPeriod Config.pfInit.period
  z := tabulate 10 (rd binary32 Config.pfInit.z)
  p := tabulate 10 (rd binary32 Config.pfInit.p)
  gain := Config.pfInit.gain
  history := Config.pfInit.history

/-- The configuration CFG of this hardware. PHASE_INIT, MS_FLOOR and the four `*_INIT` sets are the decided values
of 10_state.md R53, R56 and 42_gain_predictor.md R153 (log 7). -/
def cfg : Cfg B32 where
  num := binary32
  nonr := Config.nonr
  nonrw := Config.nonrw
  nonrlg := Config.nonrlg
  wnSyn := fun n => finiteOr0 (Config.wnSyn n)
  wnW := fun n => finiteOr0 (Config.wnW n)
  wnG := fun n => finiteOr0 (Config.wnG n)
  decSyn := finiteOr0 Config.decSyn
  decW := finiteOr0 Config.decW
  decG := finiteOr0 Config.decG
  wncf := finiteOr0 Config.wncf
  bwSyn := decayTable Config.bwSyn
  bwWz := decayTable Config.bwWz
  bwWp := decayTable Config.bwWp
  bwG := decayTable Config.bwG
  goff := finiteOr0 Config.goff
  msFloor := b32OfInt 1
  cbShape := fun j k => finiteOr0 (Config.cbShape j k)
  cbGain := gainTable
  stateMin := stateMin
  stateMax := stateMax
  phaseInit := .p1
  aInit := identitySet 50
  wzInit := identitySet 10
  wpInit := identitySet 10
  gpInit := b32OfInt 1 :: b32OfInt (-1) :: List.replicate 9 b32Zero
  pfInit := pfInit
  pfStep := postfilterStep binary32 Config.pfOpen

end Sys2Proof.Machine
end

