-- ==== Sys2Proof/Machine/VqKernel.lean ====
section
/-! DEFINITION. The vector quantizer of 44_vq.md and the PCM conversions of 45_controller.md as functions over any
NUM and any CFG. -/

namespace Sys2Proof.Machine

variable {α : Type}

/-- `CB_G2[g] = 2·CB_GAIN[g]` (00_scope.md R12). -/
def cbG2 (C : Cfg α) (g : Nat) : α := C.num.mul C.num.two (C.cbGain g)

/-- `CB_GSQ[g] = CB_GAIN[g]·CB_GAIN[g]` (00_scope.md R12). -/
def cbGsq (C : Cfg α) (g : Nat) : α := C.num.mul (C.cbGain g) (C.cbGain g)

/-- `CB_GB[i] = (CB_GAIN[i] + CB_GAIN[i+1]) / 2` (00_scope.md R12). -/
def cbGb (C : Cfg α) (i : Nat) : α := C.num.div (C.num.add (C.cbGain i) (C.cbGain (i + 1))) C.num.two

/-- TREVCONV: `pn[k] = Σ_{i=k}^{4} xn[i]·H[i−k]` (44_vq.md R181). -/
def trevconv (N : NumOps α) (H xn : Vec5 α) : Vec5 α :=
  Vec5.ofFn (fun k => sumFrom N k (5 - k) (fun i => N.mul (xn.get i) (H.get (i - k))))

/-- The correlation of codeword `j` (44_vq.md R183). -/
def correlation (C : Cfg α) (pn : Vec5 α) (j : Nat) : α :=
  sumFrom C.num 0 5 (fun k => C.num.mul (pn.get k) (C.cbShape j k))

/-- The gain level: how many of the three scaled midpoints `|cor|` strictly exceeds (44_vq.md R183, R185). -/
def gainLevel (C : Cfg α) (pc e : α) : Nat :=
  (if C.num.lt (C.num.mul (cbGb C 0) e) pc then 1 else 0)
    + (if C.num.lt (C.num.mul (cbGb C 1) e) pc then 1 else 0)
    + (if C.num.lt (C.num.mul (cbGb C 2) e) pc then 1 else 0)

/-- The gain index: the negative half iff the correlation is strictly negative (44_vq.md R183, R186). -/
def gainIndex (C : Cfg α) (cor e : α) : Nat :=
  let lvl := gainLevel C (C.num.abs cor) e
  if C.num.lt cor C.num.zero then lvl + 4 else lvl

/-- The distortion `CB_GSQ[g]·E[j] − CB_G2[g]·cor` (44_vq.md R183, R184). -/
def distortion (C : Cfg α) (g : Nat) (e cor : α) : α :=
  C.num.sub (C.num.mul (cbGsq C g) e) (C.num.mul (cbG2 C g) cor)

/-- The best candidate so far. -/
structure Best (α : Type) where
  d : α
  shape : Nat
  gain : Nat
  deriving DecidableEq, Repr

/-- Codeword `j` of the search: it replaces the best iff `j = 0` or its distortion is strictly less
(44_vq.md R183, R187). -/
def vqStep (C : Cfg α) (pn : Vec5 α) (E : List α) (best : Option (Best α)) (j : Nat) : Option (Best α) :=
  let e := rd C.num E j
  let cor := correlation C pn j
  let g := gainIndex C cor e
  let d := distortion C g e cor
  match best with
  | none => some { d := d, shape := j, gain := g }
  | some b => if C.num.lt d b.d then some { d := d, shape := j, gain := g } else some b

/-- The winner over the codewords `0 .. n−1`, in ascending order. -/
def vqBest (C : Cfg α) (pn : Vec5 α) (E : List α) (n : Nat) : Option (Best α) :=
  (List.range n).foldl (vqStep C pn E) none

/-- `(shape << 3) | gain` as ten bits (44_vq.md R183, 30_encoding.md R89). -/
def packIndex (shape gain : Nat) : BitVec 10 := BitVec.ofNat 7 shape ++ BitVec.ofNat 3 gain

/-- VQSEARCH (44_vq.md R183). -/
def vqsearch (C : Cfg α) (H : Vec5 α) (E : List α) (xn : Vec5 α) : BitVec 10 :=
  match vqBest C (trevconv C.num H xn) E 128 with
  | some b => packIndex b.shape b.gain
  | none => packIndex 0 0

/-- `shape = idx[9:3]` (44_vq.md R190). -/
def idxShape (idx : BitVec 10) : Nat := (idx.extractLsb' 3 7).toNat

/-- `g = idx[2:0]` (44_vq.md R190). -/
def idxGain (idx : BitVec 10) : Nat := (idx.extractLsb' 0 3).toNat

/-- EXCITE: the two gains are multiplied first (44_vq.md R190). -/
def excite (C : Cfg α) (idx : BitVec 10) (gain : α) : Vec5 α :=
  let sg := C.num.mul gain (C.cbGain (idxGain idx))
  Vec5.ofFn (fun k => C.num.mul sg (C.cbShape (idxShape idx) k))

/-- PCM_IN: `x = ofInt(p)·IN_SCALE` (45_controller.md R222). -/
def pcmIn (N : NumOps α) (p : Int) : α := N.mul (N.ofInt p) N.inScale

/-- PCM_OUT: `p = sat16(toIntRound(x / IN_SCALE))` (45_controller.md R223). -/
def pcmOut (N : NumOps α) (x : α) : Int := sat16 (N.toIntRound (N.div x N.inScale))

end Sys2Proof.Machine
end

