-- ==== Sys2Proof/Machine/CoreState.lean ====
section
/-! DEFINITION. The spec's own state elements (10_state.md R22 to R50) over any NUM with their reset values, and the
operand latches of the micro-operations. -/

namespace Sys2Proof.Machine

/-- Exactly the elements of 10_state.md R22 to R50 (R20), under the spec's names. Arrays are lists of the lengths
of R59. -/
structure CoreState (α : Type) where
  CTRL : Ctrl
  MODE : Mode
  PF_EN : Bool
  PHASE : Phase
  VX : Fin 12
  ERR : ErrCode
  A_RDY : Bool
  W_RDY : Bool
  GP_RDY : Bool
  A_CUR : List α
  A_PEND : List α
  WZ_CUR : List α
  WP_CUR : List α
  WZ_PEND : List α
  WP_PEND : List α
  GP_CUR : List α
  GP_PEND : List α
  H : Vec5 α
  E : List α
  GSTATE : List α
  SYN_MEM : List α
  WF_ZMEM : List α
  WF_PMEM : List α
  PWF_ZMEM : List α
  PWF_PMEM : List α
  PF_A10 : List α
  PF_K1 : α
  PF_STATE : PfState α
  QIN : List α
  QEXC : List α
  QSYN : List α
  QLG : List α
  SB_SYN : List α
  SB_W : List α
  SB_G : List α
  REXP_SYN : List α
  REXP_W : List α
  REXP_G : List α
  deriving DecidableEq, Repr

/-- `n` zeros. -/
def zeros {α : Type} (N : NumOps α) (n : Nat) : List α := List.replicate n N.zero

/-- Power-on: 10_state.md R52 to R57. `H` and `E` are computed from the reset coefficients (R55). -/
def coreReset {α : Type} (C : Cfg α) : CoreState α :=
  let h := iresp C.num C.aInit C.wzInit C.wpInit
  { CTRL := .idle
    MODE := .enc
    PF_EN := false
    PHASE := C.phaseInit
    VX := 0
    ERR := .none
    A_RDY := false
    W_RDY := false
    GP_RDY := false
    A_CUR := C.aInit
    A_PEND := C.aInit
    WZ_CUR := C.wzInit
    WP_CUR := C.wpInit
    WZ_PEND := C.wzInit
    WP_PEND := C.wpInit
    GP_CUR := C.gpInit
    GP_PEND := C.gpInit
    H := h
    E := shapen C.num h C.cbShape
    GSTATE := zeros C.num 10
    SYN_MEM := zeros C.num 50
    WF_ZMEM := zeros C.num 10
    WF_PMEM := zeros C.num 10
    PWF_ZMEM := zeros C.num 10
    PWF_PMEM := zeros C.num 10
    PF_A10 := C.num.one :: zeros C.num 10
    PF_K1 := C.num.zero
    PF_STATE := C.pfInit
    QIN := zeros C.num 60
    QEXC := zeros C.num 60
    QSYN := zeros C.num 60
    QLG := zeros C.num 12
    SB_SYN := zeros C.num (70 + C.nonr)
    SB_W := zeros C.num (30 + C.nonrw)
    SB_G := zeros C.num (14 + C.nonrlg)
    REXP_SYN := zeros C.num 51
    REXP_W := zeros C.num 11
    REXP_G := zeros C.num 11 }

/-- The MODEL's own field, not the spec's: the operands and results of a micro-operation that is run as an
instruction by itself, under the names the rules give them (log 12). No command reads or writes them: a local
"does not survive the rule" (00_scope.md R16). -/
structure Locals where
  /-- `Q` of RINGRD -/
  ring : Ring
  /-- `Q` of RINGWR -/
  wring : SpeechRing
  /-- `len` of RINGRD -/
  len : Nat
  /-- the window RINGRD returns and HWIN takes as its new frame -/
  new : List B32
  /-- which instantiation of HWIN and LEVDUR (40_lpc_core.md R115) -/
  adapter : Adapter
  /-- which instantiation of BWEXP (40_lpc_core.md R123) -/
  bw : BwTable
  /-- the autocorrelation HWIN returns and LEVDUR takes -/
  R : List B32
  /-- the coefficients LEVDUR returns and BWEXP takes -/
  a : List B32
  /-- the success value of LEVDUR -/
  ok : Bool
  /-- `out` of BWEXP -/
  bx : List B32
  /-- `in` of PWFILT -/
  inp : Vec5 B32
  /-- `v` of PWFILT and of RINGWR -/
  v : Vec5 B32
  zs : Vec5 B32
  zw : Vec5 B32
  gain : B32
  xn : Vec5 B32
  pn : Vec5 B32
  idx : BitVec 10
  et : Vec5 B32
  sq : Vec5 B32
  /-- `out` of POSTFILT -/
  out : Vec5 B32
  /-- the PCM sample of PCM_IN and PCM_OUT -/
  p : HalfWord
  /-- the NUM sample of PCM_IN and PCM_OUT -/
  x : B32
  deriving DecidableEq, Repr

/-- The latches at power-on: first names, zeros (log 12). -/
def localsReset : Locals where
  ring := .speech .qin
  wring := .qin
  len := 0
  new := []
  adapter := .syn
  bw := .syn
  R := []
  a := []
  ok := false
  bx := []
  inp := zero5 binary32
  v := zero5 binary32
  zs := zero5 binary32
  zw := zero5 binary32
  gain := b32Zero
  xn := zero5 binary32
  pn := zero5 binary32
  idx := 0#10
  et := zero5 binary32
  sq := zero5 binary32
  out := zero5 binary32
  p := 0#16
  x := b32Zero

end Sys2Proof.Machine
end

