-- ==== Sys2Proof/Machine/State.lean ====
section
/-! DEFINITION. The machine's State as plain data: the spec's elements over the decided NUM, the port streams and the
operand latches; the reasons a step can stop; the state after power-on. -/

namespace Sys2Proof.Machine

/-- The machine's state: the spec's elements over the decided NUM, the four ports of 30_encoding.md R86 as streams
(log 9), and the operand latches (log 12). -/
structure State extends CoreState B32 where
  /-- `CMD`: the command words the host will issue, the next one first. The port carries no other format
  (30_encoding.md R88) -/
  CMD : List HalfWord
  /-- `DIN` of ENC_VEC: the input samples left -/
  DIN_SMP : List B32
  /-- `DIN` of DEC_VEC: the bytes left in the index stream -/
  DIN_IDX : List Byte
  /-- `DOUT` of ENC_VEC: the index bytes produced so far, high byte of each word first -/
  DOUT_IDX : List Byte
  /-- `DOUT` of DEC_VEC: the samples produced so far -/
  DOUT_SMP : List B32
  loc : Locals
  /-- The MODEL's own field, not the spec's: a word laid before the sequencer from outside the machine, to be run alone. It
  is how an index word or a micro-operation, which no port hands to the sequencer (30_encoding.md R88, 60_exceptions.md
  R266), is run as an instruction by itself. No port, no command and no step puts a word here (log 14). -/
  bench : Option CodeWord
  deriving DecidableEq, Repr

/-- Why the machine would stop with a fault. It never does: the two fatal conditions of 60_exceptions.md R252 and R253
end the session and leave a state (R256), so nothing raises a Fault. Safe. -/
inductive Fault where
  deriving DecidableEq, Repr

/-- Why a word is given no meaning. -/
inductive Refusal where
  /-- Raised by exec for an instruction whose meaning is not written yet. Safe. -/
  | notModelled (mnemonic : String)
  /-- Raised by step for a micro-operation number that 30_encoding.md R103 says names nothing. Safe: no claim can
  be proved about what follows it. -/
  | unassignedMicroOp
  deriving DecidableEq, Repr

/-- Power-on (10_state.md R51 to R57), the port streams empty. -/
def State.reset : State where
  toCoreState := coreReset cfg
  CMD := []
  DIN_SMP := []
  DIN_IDX := []
  DOUT_IDX := []
  DOUT_SMP := []
  loc := localsReset
  bench := none

/-- The answer of every meaning below. -/
abbrev Answer := Host.Outcome State Fault Refusal

end Sys2Proof.Machine
end

