-- ==== Sys2Proof/Machine/Ops.lean ====
section
/-! DEFINITION. The named operations over the state: the rings, the end of a vector step, the start of a session, the
fatal conditions and refusals of 60_exceptions.md, and the port streams. -/

namespace Sys2Proof.Machine

variable {α : Type}

/-! ## Rings (20_memory.md) -/

/-- The contents of a ring. -/
def ringOf (s : CoreState α) (q : Ring) : List α :=
  match q with
  | .speech .qin => s.QIN
  | .speech .qexc => s.QEXC
  | .speech .qsyn => s.QSYN
  | .qlg => s.QLG

/-- `L`, the length of a ring (20_memory.md R60). -/
def ringLength (q : Ring) : Nat :=
  match q with
  | .speech _ => 60
  | .qlg => 12

/-- `e`, one past the newest element before the current vector (20_memory.md R66). -/
def ringEnd (q : Ring) (vx : Fin 12) : Nat :=
  match q with
  | .speech _ => 5 * vx.val
  | .qlg => vx.val

/-- The index `(e − len + n) mod L`, the remainder non-negative (20_memory.md R64, R66). -/
def windowIndex (q : Ring) (vx : Fin 12) (len n : Nat) : Nat :=
  (((ringEnd q vx : Int) - len + n) % (ringLength q : Int)).toNat

/-- RINGRD (20_memory.md R66): oldest first. -/
def ringRead (N : NumOps α) (s : CoreState α) (q : Ring) (len : Nat) : List α :=
  tabulate len (fun n => rd N (ringOf s q) (windowIndex q s.VX len n))

/-- `Q[5·VX + k] <- v[k]`, `k = 0..4` (20_memory.md R67). -/
def writeSlot (l : List α) (vx : Fin 12) (v : Vec5 α) : List α :=
  (List.range 5).foldl (fun acc k => acc.set (5 * vx.val + k) (v.get k)) l

/-- RINGWR (20_memory.md R67). -/
def ringWrite (s : CoreState α) (q : SpeechRing) (v : Vec5 α) : CoreState α :=
  match q with
  | .qin => { s with QIN := writeSlot s.QIN s.VX v }
  | .qexc => { s with QEXC := writeSlot s.QEXC s.VX v }
  | .qsyn => { s with QSYN := writeSlot s.QSYN s.VX v }

/-! ## Sequencing (45_controller.md) -/

/-- `(PHASE mod 4) + 1` (10_state.md R25). -/
def nextPhase (p : Phase) : Phase :=
  match p with
  | .p1 => .p2
  | .p2 => .p3
  | .p3 => .p4
  | .p4 => .p1

/-- `(VX + 1) mod 12` (10_state.md R26). -/
def nextSlot (vx : Fin 12) : Fin 12 := ⟨(vx.val + 1) % 12, Nat.mod_lt _ (by decide)⟩

/-- STEP_END (45_controller.md R212). -/
def stepEnd (s : CoreState α) : CoreState α := { s with VX := nextSlot s.VX, PHASE := nextPhase s.PHASE }

/-- The state INIT_ENC and INIT_DEC leave: the reset procedure of 45_controller.md R203, then the mode, the postfilter
bit and `CTRL <- RUNNING` (R201, R202). Nothing of the old session is in it (R280, R284). -/
def sessionStart (C : Cfg α) (mode : Mode) (pf : Bool) : CoreState α :=
  { coreReset C with CTRL := .running, MODE := mode, PF_EN := pf }

/-! ## Fatal conditions and refusals (60_exceptions.md) -/

/-- `raise Fatal(code)`: `ERR <- code`, `CTRL <- FINISHED`, no other element (60_exceptions.md R256). There is no way
back but a new session (R263). -/
def raiseFatal (code : ErrCode) (s : CoreState α) : CoreState α := { s with ERR := code, CTRL := .finished }

/-- A refused command: `ERR <- code`, nothing else (60_exceptions.md R254, R255, 45_controller.md R206). -/
def refuseCommand (code : ErrCode) (s : CoreState α) : CoreState α := { s with ERR := code }

/-- The need of ENC_VEC and DEC_VEC: `CTRL = RUNNING` and the matching mode (45_controller.md R206). -/
def vectorReady (mode : Mode) (s : CoreState α) : Bool := decide (s.CTRL = .running) && decide (s.MODE = mode)

/-! ## The machine's state -/

/-- New spec elements, the ports and the latches as they are. -/
def State.setCore (s : State) (c : CoreState B32) : State := { s with toCoreState := c }

/-- New latches, everything else as it is. -/
def State.setLoc (s : State) (l : Locals) : State := { s with loc := l }

/-- What the host reads on `STATUS` (30_encoding.md R86). -/
structure Status where
  CTRL : Ctrl
  ERR : ErrCode
  PHASE : Phase
  MODE : Mode
  PF_EN : Bool
  deriving DecidableEq, Repr

/-- `STATUS`: a read without a side effect (30_encoding.md R86). -/
def State.status (s : State) : Status := ⟨s.CTRL, s.ERR, s.PHASE, s.MODE, s.PF_EN⟩

/-- What a word that names no instruction does. An illegal command word is refused (60_exceptions.md R254). An index
word out of range is fatal where DEC_VEC would be accepted (R253) and is refused with BAD_STATE elsewhere (R255), so that no
fatal condition follows another (R264); that a bare word is treated so is the model's choice (log 16). A micro-operation
number that names nothing has no behaviour (30_encoding.md R103), so it is refused by name (log 15). -/
def rejectWord (r : Reject) (s : State) : Answer :=
  match r with
  | .illegalCommand => .next (s.setCore (refuseCommand .illegalCmd s.toCoreState))
  | .indexRange =>
    if vectorReady .dec s.toCoreState then .next (s.setCore (raiseFatal .indexRange s.toCoreState))
    else .next (s.setCore (refuseCommand .badState s.toCoreState))
  | .unassigned => .refused .unassignedMicroOp

end Sys2Proof.Machine
end

