-- ==== Sys2Proof/Machine/Operands.lean ====
section
/-! DEFINITION. The operand forms: what a command takes from and puts on the ports (30_encoding.md R86), which tables and
state an instantiation of a micro-operation uses (40_lpc_core.md R115, R123), and the result latches. -/

namespace Sys2Proof.Machine

variable {α : Type}

/-- The five samples ENC_VEC takes from DIN, oldest first, and what is left; `none` while fewer than five have been
supplied (30_encoding.md R86). -/
def takeVector (l : List α) : Option (Vec5 α × List α) :=
  match l with
  | a :: b :: c :: d :: e :: rest => some (⟨a, b, c, d, e⟩, rest)
  | _ => none

/-- The bytes DEC_VEC finds on DIN (45_controller.md R213). -/
inductive IndexInput where
  /-- no byte: the index source is exhausted -/
  | exhausted
  /-- one byte: the stream ends inside a word -/
  | truncated
  /-- a word with `w[15:10] ≠ 0` -/
  | outOfRange (rest : List Byte)
  /-- a legal index `w[9:0]` -/
  | legal (idx : BitVec 10) (rest : List Byte)
  deriving DecidableEq, Repr

/-- The checks of DEC_VEC in their order; at most two bytes are taken (45_controller.md R213). -/
def takeIndex (bytes : List Byte) : IndexInput :=
  match bytes with
  | [] => .exhausted
  | [_] => .truncated
  | b0 :: b1 :: rest =>
    let w := assembleIndex b0 b1
    if indexLegal w then .legal (w.extractLsb' 0 10) rest else .outOfRange rest

/-- The two bytes of an emitted index, `zext_16(idx)` with the high byte first (30_encoding.md R95, R91). -/
def indexBytes (idx : BitVec 10) : List Byte :=
  let w : HalfWord := idx.setWidth 16
  [(wordBytes w).1, (wordBytes w).2]

/-- HWIN as an adapter calls it: its order, frame size, span, window and decay (40_lpc_core.md R115). -/
def adapterHwin (C : Cfg α) (ad : Adapter) (s : CoreState α) (new : List α) : HwinResult α :=
  match ad with
  | .syn => hwin C.num 50 20 C.nonr s.SB_SYN new C.wnSyn s.REXP_SYN C.decSyn C.wncf
  | .wgt => hwin C.num 10 20 C.nonrw s.SB_W new C.wnW s.REXP_W C.decW C.wncf
  | .gain => hwin C.num 10 4 C.nonrlg s.SB_G new C.wnG s.REXP_G C.decG C.wncf

/-- The history and the recursive part HWIN leaves (40_lpc_core.md R113 c: whatever LEVDUR then does). -/
def storeHwin (ad : Adapter) (s : CoreState α) (h : HwinResult α) : CoreState α :=
  match ad with
  | .syn => { s with SB_SYN := h.SB, REXP_SYN := h.REXP }
  | .wgt => { s with SB_W := h.SB, REXP_W := h.REXP }
  | .gain => { s with SB_G := h.SB, REXP_G := h.REXP }

/-- The order of an adapter's recursion: LPC, LPCW, LPCLG (40_lpc_core.md R115). -/
def adapterOrder (ad : Adapter) : Nat :=
  match ad with
  | .syn => 50
  | .wgt => 10
  | .gain => 10

/-- An instantiation of BWEXP (40_lpc_core.md R123). -/
def tableBwexp (C : Cfg α) (t : BwTable) (a : List α) : List α :=
  match t with
  | .syn => bwexp C.num a C.bwSyn 50
  | .wz => bwexp C.num a C.bwWz 10
  | .wp => bwexp C.num a C.bwWp 10
  | .g => bwexp C.num a C.bwG 10

end Sys2Proof.Machine
end

