-- ==== Sys2Proof/Machine/Filters.lean ====
section
/-! DEFINITION. PWFILT, ZRESP, MEMUPD, IRESP and SHAPEN (43_filters.md). -/

namespace Sys2Proof.Machine

variable {α : Type}

/-- The cascade's memories in the state (10_state.md R38, R39). -/
def cascadeMem (s : CoreState α) : CMem α := { syn := s.SYN_MEM, w := { z := s.WF_ZMEM, p := s.WF_PMEM } }

/-- PWFILT: the weighted input and the new input-path memory (43_filters.md R161). -/
def corePwfilt (C : Cfg α) (inp : Vec5 α) (s : CoreState α) : CoreState α × Vec5 α :=
  let r := pwfilt C.num s.WZ_CUR s.WP_CUR { z := s.PWF_ZMEM, p := s.PWF_PMEM } inp
  ({ s with PWF_ZMEM := r.1.z, PWF_PMEM := r.1.p }, r.2)

/-- ZRESP: `(zs, zw)`; writes no state (43_filters.md R164). -/
def coreZresp (C : Cfg α) (s : CoreState α) : Vec5 α × Vec5 α :=
  zresp C.num s.A_CUR s.WZ_CUR s.WP_CUR (cascadeMem s)

/-- MEMUPD: the synthesized vector and the new cascade memories (43_filters.md R166). -/
def coreMemupd (C : Cfg α) (et : Vec5 α) (s : CoreState α) : CoreState α × Vec5 α :=
  let r := memupd C.num s.A_CUR s.WZ_CUR s.WP_CUR C.stateMin C.stateMax (cascadeMem s) et
  ({ s with SYN_MEM := r.1.syn, WF_ZMEM := r.1.w.z, WF_PMEM := r.1.w.p }, r.2)

/-- IRESP: `H` from the current coefficients (43_filters.md R170). -/
def coreIresp (C : Cfg α) (s : CoreState α) : CoreState α :=
  { s with H := iresp C.num s.A_CUR s.WZ_CUR s.WP_CUR }

/-- SHAPEN: `E` from `H` (43_filters.md R172). -/
def coreShapen (C : Cfg α) (s : CoreState α) : CoreState α := { s with E := shapen C.num s.H C.cbShape }

/-- PWFILT on `inp`; the result goes to `v`. -/
def execPwfilt (s : State) : Answer :=
  let r := corePwfilt cfg s.loc.inp s.toCoreState
  .next ((s.setCore r.1).setLoc { s.loc with v := r.2 })

/-- ZRESP; the results go to `zs` and `zw`. -/
def execZresp (s : State) : Answer :=
  let r := coreZresp cfg s.toCoreState
  .next (s.setLoc { s.loc with zs := r.1, zw := r.2 })

/-- MEMUPD on `et`; the result goes to `sq`. -/
def execMemupd (s : State) : Answer :=
  let r := coreMemupd cfg s.loc.et s.toCoreState
  .next ((s.setCore r.1).setLoc { s.loc with sq := r.2 })

/-- IRESP. -/
def execIresp (s : State) : Answer := .next (s.setCore (coreIresp cfg s.toCoreState))

/-- SHAPEN. -/
def execShapen (s : State) : Answer := .next (s.setCore (coreShapen cfg s.toCoreState))

end Sys2Proof.Machine
end

