-- ==== Sys2Proof/Machine/Flags.lean ====
section
/-! DEFINITION. The ready flags of 10_state.md R28, CORE's only flags: set by an adapter's success together with its
pending set, cleared by the commit (41_adapters.md R140 to R142). -/

namespace Sys2Proof.Machine

variable {α : Type}

/-- ADAPT_SYN's success: the pending set and its flag (41_adapters.md R131). -/
def setPendingSyn (s : CoreState α) (a : List α) : CoreState α := { s with A_PEND := a, A_RDY := true }

/-- ADAPT_GAIN's success (41_adapters.md R134). -/
def setPendingGain (s : CoreState α) (a : List α) : CoreState α := { s with GP_PEND := a, GP_RDY := true }

/-- ADAPT_WGT's success: the zero and pole sets share one flag (41_adapters.md R137). -/
def setPendingWgt (s : CoreState α) (wz wp : List α) : CoreState α :=
  { s with WZ_PEND := wz, WP_PEND := wp, W_RDY := true }

/-- COMMIT_SYN (41_adapters.md R140). -/
def commitSyn (s : CoreState α) : CoreState α :=
  if s.A_RDY then { s with A_CUR := s.A_PEND, A_RDY := false } else s

/-- COMMIT_GAIN (41_adapters.md R141). -/
def commitGain (s : CoreState α) : CoreState α :=
  if s.GP_RDY then { s with GP_CUR := s.GP_PEND, GP_RDY := false } else s

/-- COMMIT_WGT (41_adapters.md R142). -/
def commitWgt (s : CoreState α) : CoreState α :=
  if s.W_RDY then { s with WZ_CUR := s.WZ_PEND, WP_CUR := s.WP_PEND, W_RDY := false } else s

end Sys2Proof.Machine
end

