-- ==== Sys2Proof/Machine/Lpc.lean ====
section
/-! DEFINITION. HWIN, LEVDUR, LEVDUR_SYN and BWEXP as instructions (40_lpc_core.md). The sizes and tables are those of the
instantiation the latches name (R115, R123). -/

namespace Sys2Proof.Machine

variable {α : Type}

/-- LEVDUR_SYN's cache, written if and only if the recursion succeeds (40_lpc_core.md R119). -/
def storeLevSyn (s : CoreState α) (r : LevSyn α) : CoreState α := { s with PF_K1 := r.k1, PF_A10 := r.a10 }

/-- HWIN on the new frame `new` (40_lpc_core.md R110, R111). -/
def execHwin (s : State) : Answer :=
  let h := adapterHwin cfg s.loc.adapter s.toCoreState s.loc.new
  .next ((s.setCore (storeHwin s.loc.adapter s.toCoreState h)).setLoc { s.loc with R := h.R })

/-- LEVDUR on `R`: `a` and `ok`; on failure `ok` is false and `a` is as it was (40_lpc_core.md R116). -/
def execLevdur (s : State) : Answer :=
  match levdur cfg.num s.loc.R (adapterOrder s.loc.adapter) with
  | some a => .next (s.setLoc { s.loc with a := a, ok := true })
  | none => .next (s.setLoc { s.loc with ok := false })

/-- LEVDUR_SYN on `R`: LEVDUR of order 50, and the cache on success only (40_lpc_core.md R119). -/
def execLevdurSyn (s : State) : Answer :=
  match levdurSyn cfg.num s.loc.R with
  | some r => .next ((s.setCore (storeLevSyn s.toCoreState r)).setLoc { s.loc with a := r.a, ok := true })
  | none => .next (s.setLoc { s.loc with ok := false })

/-- BWEXP on `a` with the table `bw` (40_lpc_core.md R122). -/
def execBwexp (s : State) : Answer :=
  .next (s.setLoc { s.loc with bx := tableBwexp cfg s.loc.bw s.loc.a })

end Sys2Proof.Machine
end

