-- ==== Sys2Proof/Machine/Adapters.lean ====
section
/-! DEFINITION. The three backward adapters, the three commits and the phase schedule (41_adapters.md). -/

namespace Sys2Proof.Machine

variable {α : Type}

/-- ADAPT_SYN (41_adapters.md R131): on failure the pending set, the flag and the cache are left as they are. -/
def adaptSyn (C : Cfg α) (s : CoreState α) : CoreState α :=
  let h := adapterHwin C .syn s (ringRead C.num s (.speech .qsyn) 20)
  let s1 := storeHwin .syn s h
  match levdurSyn C.num h.R with
  | none => s1
  | some r => setPendingSyn (storeLevSyn s1 r) (tableBwexp C .syn r.a)

/-- ADAPT_GAIN (41_adapters.md R134). -/
def adaptGain (C : Cfg α) (s : CoreState α) : CoreState α :=
  let h := adapterHwin C .gain s (ringRead C.num s .qlg 4)
  let s1 := storeHwin .gain s h
  match levdur C.num h.R (adapterOrder .gain) with
  | none => s1
  | some a => setPendingGain s1 (tableBwexp C .g a)

/-- The weighting adapter's signal: the input speech in an encoder, the unpostfiltered synthesized speech in a
decoder (41_adapters.md R136). -/
def weightingSource (mode : Mode) : Ring :=
  match mode with
  | .enc => .speech .qin
  | .dec => .speech .qsyn

/-- ADAPT_WGT (41_adapters.md R137). -/
def adaptWgt (C : Cfg α) (s : CoreState α) : CoreState α :=
  let h := adapterHwin C .wgt s (ringRead C.num s (weightingSource s.MODE) 20)
  let s1 := storeHwin .wgt s h
  match levdur C.num h.R (adapterOrder .wgt) with
  | none => s1
  | some a => setPendingWgt s1 (tableBwexp C .wz a) (tableBwexp C .wp a)

/-- SCHED: the fixed phase-to-action map (41_adapters.md R145, R146). -/
def sched (C : Cfg α) (s : CoreState α) : CoreState α :=
  match s.PHASE with
  | .p1 => adaptSyn C s
  | .p2 => commitGain (adaptGain C s)
  | .p3 => coreShapen C (coreIresp C (commitWgt (adaptWgt C (commitSyn s))))
  | .p4 => s

/-- ADAPT_SYN. -/
def execAdaptSyn (s : State) : Answer := .next (s.setCore (adaptSyn cfg s.toCoreState))

/-- ADAPT_GAIN. -/
def execAdaptGain (s : State) : Answer := .next (s.setCore (adaptGain cfg s.toCoreState))

/-- ADAPT_WGT. -/
def execAdaptWgt (s : State) : Answer := .next (s.setCore (adaptWgt cfg s.toCoreState))

/-- COMMIT_SYN. -/
def execCommitSyn (s : State) : Answer := .next (s.setCore (commitSyn s.toCoreState))

/-- COMMIT_GAIN. -/
def execCommitGain (s : State) : Answer := .next (s.setCore (commitGain s.toCoreState))

/-- COMMIT_WGT. -/
def execCommitWgt (s : State) : Answer := .next (s.setCore (commitWgt s.toCoreState))

/-- SCHED. -/
def execSched (s : State) : Answer := .next (s.setCore (sched cfg s.toCoreState))

end Sys2Proof.Machine
end

