-- ==== Sys2Proof/Machine/Gain.lean ====
section
/-! DEFINITION. PREDGAIN and UPDGAIN (42_gain_predictor.md). -/

namespace Sys2Proof.Machine

variable {α : Type}

/-- PREDGAIN: writes nothing (42_gain_predictor.md R151). -/
def corePredgain (C : Cfg α) (s : CoreState α) : α := predgain C.num C.goff s.GP_CUR s.GSTATE

/-- UPDGAIN: the log-gain of `et` goes to `GSTATE[0]` and to `QLG[VX]` (42_gain_predictor.md R154). -/
def coreUpdgain (C : Cfg α) (et : Vec5 α) (s : CoreState α) : CoreState α :=
  let lg := logGain C.num C.goff C.msFloor et
  { s with GSTATE := push s.GSTATE lg, QLG := s.QLG.set s.VX.val lg }

/-- PREDGAIN: the result goes to `gain`. -/
def execPredgain (s : State) : Answer :=
  .next (s.setLoc { s.loc with gain := corePredgain cfg s.toCoreState })

/-- UPDGAIN on `et`. -/
def execUpdgain (s : State) : Answer := .next (s.setCore (coreUpdgain cfg s.loc.et s.toCoreState))

end Sys2Proof.Machine
end

