-- ==== Sys2Proof/Machine/Postfilter.lean ====
section
/-! DEFINITION. POSTFILT (46_postfilter.md): the function PF on exactly the arguments of R231. -/

namespace Sys2Proof.Machine

variable {α : Type}

/-- POSTFILT: writes `PF_STATE` and nothing else (46_postfilter.md R232, R233). -/
def corePostfilt (C : Cfg α) (sq : Vec5 α) (s : CoreState α) : CoreState α × Vec5 α :=
  let r := C.pfStep s.PF_STATE sq s.QSYN s.QEXC s.VX s.PF_A10 s.PF_K1
  ({ s with PF_STATE := r.1 }, r.2)

/-- POSTFILT on `sq`; the result goes to `out`. Run by itself it runs in an encoder and with `PF_EN = 0` too, where no command
invokes it (46_postfilter.md R230): the model's choice (log 12). -/
def execPostfilt (s : State) : Answer :=
  let r := corePostfilt cfg s.loc.sq s.toCoreState
  .next ((s.setCore r.1).setLoc { s.loc with out := r.2 })

end Sys2Proof.Machine
end

