-- ==== Sys2Proof/Machine/Quantizer.lean ====
section
/-! DEFINITION. TREVCONV, VQSEARCH and EXCITE as instructions, and the index word (44_vq.md). -/

namespace Sys2Proof.Machine

/-- TREVCONV on `xn`; the result goes to `pn` (44_vq.md R181). -/
def execTrevconv (s : State) : Answer :=
  .next (s.setLoc { s.loc with pn := trevconv cfg.num s.H s.loc.xn })

/-- VQSEARCH on `xn`; the result goes to `idx` (44_vq.md R183). -/
def execVqsearch (s : State) : Answer :=
  .next (s.setLoc { s.loc with idx := vqsearch cfg s.H s.E s.loc.xn })

/-- EXCITE on `idx` and `gain`; the result goes to `et` (44_vq.md R190). -/
def execExcite (s : State) : Answer :=
  .next (s.setLoc { s.loc with et := excite cfg s.loc.idx s.loc.gain })

/-- An index word stands for its excitation, EXCITE of its index and the predicted gain of the vector, which is the
latch PREDGAIN fills (30_encoding.md R96, R99); it needs no CTRL and no MODE. Both are the model's choice (log 13). -/
def execIndex (shape gain : Nat) (s : State) : Answer :=
  let idx := packIndex shape gain
  .next (s.setLoc { s.loc with idx := idx, et := excite cfg idx s.loc.gain })

end Sys2Proof.Machine
end

