-- ==== Sys2Proof/Machine/Controller.lean ====
section
/-! DEFINITION. The six commands and the two vector steps (45_controller.md). -/

namespace Sys2Proof.Machine

variable {α : Type}

/-- What an encoder vector step computes on the way: the local values of 45_controller.md R208. -/
structure EncodeResult (α : Type) where
  core : CoreState α
  gain : α
  idx : BitVec 10
  et : Vec5 α
  sq : Vec5 α

/-- ENC_VEC's sequence, line by line (45_controller.md R208). -/
def encodeVector (C : Cfg α) (sv : Vec5 α) (s : CoreState α) : EncodeResult α :=
  let s1 := sched C s
  let s2 := ringWrite s1 .qin sv
  let zw := (coreZresp C s2).2
  let pw := corePwfilt C sv s2
  let x := zip5 C.num.sub pw.2 zw
  let gain := corePredgain C pw.1
  let xn := map5 (fun t => C.num.div t gain) x
  let idx := vqsearch C pw.1.H pw.1.E xn
  let et := excite C idx gain
  let s3 := ringWrite pw.1 .qexc et
  let s4 := coreUpdgain C et s3
  let mu := coreMemupd C et s4
  let s5 := ringWrite mu.1 .qsyn mu.2
  { core := stepEnd s5, gain := gain, idx := idx, et := et, sq := mu.2 }

/-- What a decoder vector step computes on the way: the local values of 45_controller.md R214. -/
structure DecodeResult (α : Type) where
  core : CoreState α
  gain : α
  et : Vec5 α
  sq : Vec5 α
  out : Vec5 α

/-- DEC_VEC's sequence after its checks, line by line (45_controller.md R214). -/
def decodeVector (C : Cfg α) (idx : BitVec 10) (s : CoreState α) : DecodeResult α :=
  let s1 := sched C s
  let gain := corePredgain C s1
  let et := excite C idx gain
  let s2 := ringWrite s1 .qexc et
  let s3 := coreUpdgain C et s2
  let mu := coreMemupd C et s3
  let s4 := ringWrite mu.1 .qsyn mu.2
  let po := if s4.PF_EN then corePostfilt C mu.2 s4 else (s4, mu.2)
  let s5 := ringWrite po.1 .qin po.2
  { core := stepEnd s5, gain := gain, et := et, sq := mu.2, out := po.2 }

/-- NOP: nothing changes, ERR included (45_controller.md R200). -/
def execNop (s : State) : Answer := .next s

/-- INIT_ENC: accepted in every state of CTRL (45_controller.md R201). -/
def execInitEnc (s : State) : Answer := .next (s.setCore (sessionStart cfg .enc false))

/-- INIT_DEC pf: accepted in every state of CTRL (45_controller.md R202). -/
def execInitDec (pf : Bool) (s : State) : Answer := .next (s.setCore (sessionStart cfg .dec pf))

/-- FINISH (45_controller.md R205). -/
def execFinish (s : State) : Answer :=
  if s.CTRL = .running then .next (s.setCore { s.toCoreState with CTRL := .finished })
  else .next (s.setCore (refuseCommand .badState s.toCoreState))

/-- ENC_VEC (45_controller.md R206 to R208). While fewer than five samples stand on DIN the accepted command does not
start: it stays on CMD and nothing else changes (30_encoding.md R86, 20_memory.md R84, log 10). -/
def execEncVec (s : State) : Answer :=
  if vectorReady .enc s.toCoreState then
    match takeVector s.DIN_SMP with
    | none => .next { s with CMD := encVecWord :: s.CMD }
    | some (sv, rest) =>
      let r := encodeVector cfg sv s.toCoreState
      .next { s with toCoreState := r.core, DIN_SMP := rest, DOUT_IDX := s.DOUT_IDX ++ indexBytes r.idx }
  else .next (s.setCore (refuseCommand .badState s.toCoreState))

/-- DEC_VEC: the checks, before any state is changed, then the vector step (45_controller.md R206, R213, R214). The bytes
it has read are taken from DIN on a fatal condition too (log 11). -/
def execDecVec (s : State) : Answer :=
  if vectorReady .dec s.toCoreState then
    match takeIndex s.DIN_IDX with
    | .exhausted => .next (s.setCore { s.toCoreState with CTRL := .finished })
    | .truncated => .next { s with toCoreState := raiseFatal .truncated s.toCoreState, DIN_IDX := [] }
    | .outOfRange rest => .next { s with toCoreState := raiseFatal .indexRange s.toCoreState, DIN_IDX := rest }
    | .legal idx rest =>
      let r := decodeVector cfg idx s.toCoreState
      .next { s with toCoreState := r.core, DIN_IDX := rest, DOUT_SMP := s.DOUT_SMP ++ r.out.toList }
  else .next (s.setCore (refuseCommand .badState s.toCoreState))

end Sys2Proof.Machine
end

