-- ==== Sys2Proof/Machine/Interface.lean ====
section
/-! DEFINITION. PCM_IN and PCM_OUT, the interface conversions outside CORE's state (45_controller.md R222, R223). -/

namespace Sys2Proof.Machine

/-- PCM_IN on the signed sample `p`; the result goes to `x`. -/
def execPcmIn (s : State) : Answer := .next (s.setLoc { s.loc with x := pcmIn cfg.num s.loc.p.toInt })

/-- PCM_OUT on `x`; the saturated sample goes to `p`. -/
def execPcmOut (s : State) : Answer :=
  .next (s.setLoc { s.loc with p := BitVec.ofInt 16 (pcmOut cfg.num s.loc.x) })

end Sys2Proof.Machine
end

