-- ==== Sys2Proof/Machine/Rings.lean ====
section
/-! DEFINITION. RINGRD and RINGWR as instructions (20_memory.md R66, R67). -/

namespace Sys2Proof.Machine

/-- RINGRD: the window of `len` elements of `Q` goes to `new`. "Writes nothing" (20_memory.md R66), so only the result
latch changes. The precondition `len ≤ L` is not checked: the rule raises nothing (log 17). -/
def execRingrd (s : State) : Answer :=
  .next (s.setLoc { s.loc with new := ringRead cfg.num s.toCoreState s.loc.ring s.loc.len })

/-- RINGWR: the vector `v` goes to slot `VX` of `Q` (20_memory.md R67). -/
def execRingwr (s : State) : Answer :=
  .next (s.setCore (ringWrite s.toCoreState s.loc.wring s.loc.v))

end Sys2Proof.Machine
end

