-- ==== Sys2Proof/Machine/Dispatch.lean ====
section
/-! DEFINITION. Which meaning each constructor of Instr has. -/

namespace Sys2Proof.Machine

def exec (i : Instr) (s : State) : Host.Outcome State Fault Refusal :=
  match i with
  | .nop => Sys2Proof.Machine.execNop s
  | .initEnc => Sys2Proof.Machine.execInitEnc s
  | .initDec pf => Sys2Proof.Machine.execInitDec pf s
  | .encVec => Sys2Proof.Machine.execEncVec s
  | .decVec => Sys2Proof.Machine.execDecVec s
  | .finish => Sys2Proof.Machine.execFinish s
  | .index shape gain => Sys2Proof.Machine.execIndex shape gain s
  | .hwin => Sys2Proof.Machine.execHwin s
  | .levdur => Sys2Proof.Machine.execLevdur s
  | .levdurSyn => Sys2Proof.Machine.execLevdurSyn s
  | .bwexp => Sys2Proof.Machine.execBwexp s
  | .adaptSyn => Sys2Proof.Machine.execAdaptSyn s
  | .adaptGain => Sys2Proof.Machine.execAdaptGain s
  | .adaptWgt => Sys2Proof.Machine.execAdaptWgt s
  | .commitSyn => Sys2Proof.Machine.execCommitSyn s
  | .commitGain => Sys2Proof.Machine.execCommitGain s
  | .commitWgt => Sys2Proof.Machine.execCommitWgt s
  | .sched => Sys2Proof.Machine.execSched s
  | .predgain => Sys2Proof.Machine.execPredgain s
  | .updgain => Sys2Proof.Machine.execUpdgain s
  | .pwfilt => Sys2Proof.Machine.execPwfilt s
  | .zresp => Sys2Proof.Machine.execZresp s
  | .memupd => Sys2Proof.Machine.execMemupd s
  | .iresp => Sys2Proof.Machine.execIresp s
  | .shapen => Sys2Proof.Machine.execShapen s
  | .trevconv => Sys2Proof.Machine.execTrevconv s
  | .vqsearch => Sys2Proof.Machine.execVqsearch s
  | .excite => Sys2Proof.Machine.execExcite s
  | .ringrd => Sys2Proof.Machine.execRingrd s
  | .ringwr => Sys2Proof.Machine.execRingwr s
  | .postfilt => Sys2Proof.Machine.execPostfilt s
  | .pcmIn => Sys2Proof.Machine.execPcmIn s
  | .pcmOut => Sys2Proof.Machine.execPcmOut s

end Sys2Proof.Machine
end

