-- ==== Sys2Proof/Machine/Step.lean ====
section
/-! DEFINITION. One step of CORE: take the next word, decode it, run it. -/

namespace Sys2Proof.Machine

/-- A word of one of the three formats, run: its instruction, or what a word that names none does. -/
def runWord (p : CodeWord) (s : State) : Host.Outcome State Fault Refusal :=
  match decode p with
  | .ok i => exec i s
  | .error r => rejectWord r s

/-- One step. The next command word leaves the CMD port and its instruction runs on what is then there (45_controller.md
R206, 60_exceptions.md R261). With no word on CMD the machine is idle with all state held (R271, log 18). A word on the bench
is run first and leaves it; it runs whatever `CTRL` and `MODE` are, the model's choice, since the spec never runs such a word
by itself (log 12, log 13, log 14). -/
def step (s : State) : Host.Outcome State Fault Refusal :=
  match s.bench with
  | some p => runWord p { s with bench := none }
  | none =>
    match s.CMD with
    | [] => .next s
    | w :: rest => runWord (.cw w) { s with CMD := rest }

/-- The state with a table row's word put where `step` takes its next word from, in the format `tablePlace` gives it: a
command word at the head of CMD, the bench empty; any other word on the bench (log 14). -/
def State.withFetchWord (s : State) (nbits w : Nat) : State :=
  match tablePlace nbits w with
  | some (.cw c) => { s with CMD := c :: s.CMD, bench := none }
  | some p => { s with bench := some p }
  | none => s

end Sys2Proof.Machine
end

