-- ==== Sys2Proof/Machine/ExactNum.lean ====
section
/-! DEFINITION. NUM in exact arithmetic. "The spec's rules hold for any NUM" (00_scope.md R14); a claim the spec makes "in
exact arithmetic" is stated of the same functions over this record. The machine itself runs on binary32. -/

namespace Sys2Proof.Machine

/-- The record NUM over an ordered field, whose log10, pow10 and rounding are given. -/
def exactNum (K : Type) [Field K] [LinearOrder K] (log10 pow10 : K → K) (toIntRound : K → Int) : NumOps K where
  add := fun a b => a + b
  sub := fun a b => a - b
  mul := fun a b => a * b
  div := fun a b => a / b
  neg := fun a => -a
  abs := fun a => |a|
  lt := fun a b => decide (a < b)
  le := fun a b => decide (a ≤ b)
  eq := fun a b => decide (a = b)
  zero := 0
  one := 1
  two := 2
  ten := 10
  twentieth := 1 / 20
  inScale := 1 / 8
  ofInt := fun z => (z : K)
  log10 := log10
  pow10 := pow10
  toIntRound := toIntRound

end Sys2Proof.Machine
end

