-- ==== Sys2Proof/WellFormed.lean ====
section
/-! DEFINITION. Which terms of Instr an encoding can carry, check by check. -/

namespace Sys2Proof

/-- Why a term of Instr is ill-formed. -/
inductive IllFormed where
  /-- a shape index over 127 (30_encoding.md R89) -/
  | shapeRange
  /-- a gain index over 7 (30_encoding.md R89) -/
  | gainRange
  deriving DecidableEq, Repr

/-- The first check an instruction fails, if any. -/
def Instr.illFormed (i : Instr) : Option IllFormed :=
  match i with
  | .index shape gain =>
    if 128 ≤ shape then some .shapeRange else if 8 ≤ gain then some .gainRange else none
  | .nop | .initEnc | .initDec _ | .encVec | .decVec | .finish => none
  | .hwin | .levdur | .levdurSyn | .bwexp => none
  | .adaptSyn | .adaptGain | .adaptWgt | .commitSyn | .commitGain | .commitWgt | .sched => none
  | .predgain | .updgain | .pwfilt | .zresp | .memupd | .iresp | .shapen => none
  | .trevconv | .vqsearch | .excite | .ringrd | .ringwr | .postfilt | .pcmIn | .pcmOut => none

/-- No check fails. -/
abbrev Instr.WellFormed (i : Instr) : Prop := i.illFormed = none

end Sys2Proof
end

