-- ==== Sys2Proof/Safety.lean ====
section
/-! DEFINITION. What the claims about CORE are said in: the invariants of its state, the relations between two instances, and
the runs of whole streams. -/

namespace Sys2Proof.Machine

variable {α : Type}

/-! ## Invariants -/

/-- The rings hold their full lengths (20_memory.md R60): the canonical form of CORE's memories. -/
abbrev CoreState.ringsWf (s : CoreState α) : Prop :=
  s.QIN.length = 60 ∧ s.QEXC.length = 60 ∧ s.QSYN.length = 60 ∧ s.QLG.length = 12

/-- Every array has the length of 10_state.md R59. -/
structure CoreState.Sized (C : Cfg α) (s : CoreState α) : Prop where
  rings : s.ringsWf
  aCur : s.A_CUR.length = 51
  aPend : s.A_PEND.length = 51
  wzCur : s.WZ_CUR.length = 11
  wpCur : s.WP_CUR.length = 11
  wzPend : s.WZ_PEND.length = 11
  wpPend : s.WP_PEND.length = 11
  gpCur : s.GP_CUR.length = 11
  gpPend : s.GP_PEND.length = 11
  e : s.E.length = 128
  gstate : s.GSTATE.length = 10
  synMem : s.SYN_MEM.length = 50
  wfZmem : s.WF_ZMEM.length = 10
  wfPmem : s.WF_PMEM.length = 10
  pwfZmem : s.PWF_ZMEM.length = 10
  pwfPmem : s.PWF_PMEM.length = 10
  pfA10 : s.PF_A10.length = 11
  sbSyn : s.SB_SYN.length = 70 + C.nonr
  sbW : s.SB_W.length = 30 + C.nonrw
  sbG : s.SB_G.length = 14 + C.nonrlg
  rexpSyn : s.REXP_SYN.length = 51
  rexpW : s.REXP_W.length = 11
  rexpG : s.REXP_G.length = 11

/-- Index 0 of every coefficient set holds 1 (10_state.md R33), the postfilter's cached prefix among them. -/
structure CoreState.LeadingOnes (N : NumOps α) (s : CoreState α) : Prop where
  aCur : rd N s.A_CUR 0 = N.one
  aPend : rd N s.A_PEND 0 = N.one
  wzCur : rd N s.WZ_CUR 0 = N.one
  wpCur : rd N s.WP_CUR 0 = N.one
  wzPend : rd N s.WZ_PEND 0 = N.one
  wpPend : rd N s.WP_PEND 0 = N.one
  gpCur : rd N s.GP_CUR 0 = N.one
  gpPend : rd N s.GP_PEND 0 = N.one
  pfA10 : rd N s.PF_A10 0 = N.one

/-- `x` is not outside `[STATE_MIN, STATE_MAX]` (43_filters.md R166); a NaN compares with nothing (93 U7). -/
def InClampRange (C : Cfg α) (x : α) : Prop := C.num.lt x C.stateMin = false ∧ C.num.lt C.stateMax x = false

/-- The postfilter's memory: the previous period in `[20, 140]` (46_postfilter.md R235), the two memories of the order-10
filter ten long (R237). -/
structure PfState.Wf (st : PfState α) : Prop where
  least : 20 ≤ st.period
  greatest : st.period ≤ 140
  z : st.z.length = 10
  p : st.p.length = 10

/-- What every step keeps: the arrays' lengths, the leading ones, the clamp of the synthesis memory, the postfilter's
period and memories. -/
structure State.Inv (s : State) : Prop where
  sized : s.toCoreState.Sized cfg
  leadingOnes : s.toCoreState.LeadingOnes cfg.num
  clamped : ∀ x ∈ s.SYN_MEM, InClampRange cfg x
  postfilter : PfState.Wf s.PF_STATE

/-- What holds between commands and not between the micro-operations of one: the flags of 41_adapters.md R143, and `H`, `E`
matching the current coefficients (43_filters.md R174). -/
structure CoreState.Settled (C : Cfg α) (s : CoreState α) : Prop where
  gpClear : s.GP_RDY = false
  wClear : s.W_RDY = false
  aPhase : s.A_RDY = true → s.PHASE = .p2 ∨ s.PHASE = .p3
  h : s.H = iresp C.num s.A_CUR s.WZ_CUR s.WP_CUR
  e : s.E = shapen C.num s.H C.cbShape

/-! ## Two instances -/

/-- The elements an encoder and a decoder of one stream hold equal (41_adapters.md R149). -/
structure InStep (e d : CoreState α) : Prop where
  phase : e.PHASE = d.PHASE
  vx : e.VX = d.VX
  aCur : e.A_CUR = d.A_CUR
  aPend : e.A_PEND = d.A_PEND
  aRdy : e.A_RDY = d.A_RDY
  gpCur : e.GP_CUR = d.GP_CUR
  gpPend : e.GP_PEND = d.GP_PEND
  gpRdy : e.GP_RDY = d.GP_RDY
  gstate : e.GSTATE = d.GSTATE
  qlg : e.QLG = d.QLG
  qexc : e.QEXC = d.QEXC
  qsyn : e.QSYN = d.QSYN
  synMem : e.SYN_MEM = d.SYN_MEM
  sbSyn : e.SB_SYN = d.SB_SYN
  rexpSyn : e.REXP_SYN = d.REXP_SYN
  sbG : e.SB_G = d.SB_G
  rexpG : e.REXP_G = d.REXP_G
  pfA10 : e.PF_A10 = d.PF_A10
  pfK1 : e.PF_K1 = d.PF_K1

/-- The elements a decoder's unpostfiltered output depends on (45_controller.md R215), with the two counters that
select the schedule and the slots. -/
structure SameDecoderView (c d : CoreState α) : Prop where
  phase : c.PHASE = d.PHASE
  vx : c.VX = d.VX
  aCur : c.A_CUR = d.A_CUR
  aPend : c.A_PEND = d.A_PEND
  aRdy : c.A_RDY = d.A_RDY
  gpCur : c.GP_CUR = d.GP_CUR
  gpPend : c.GP_PEND = d.GP_PEND
  gpRdy : c.GP_RDY = d.GP_RDY
  gstate : c.GSTATE = d.GSTATE
  qlg : c.QLG = d.QLG
  qsyn : c.QSYN = d.QSYN
  synMem : c.SYN_MEM = d.SYN_MEM
  sbSyn : c.SB_SYN = d.SB_SYN
  rexpSyn : c.REXP_SYN = d.REXP_SYN
  sbG : c.SB_G = d.SB_G
  rexpG : c.REXP_G = d.REXP_G

/-- Two decoders that differ at most in `PF_EN`, `PF_STATE` and `QIN` (46_postfilter.md R233). -/
def SameButPostfilter (c d : CoreState α) : Prop :=
  c = { d with PF_EN := c.PF_EN, PF_STATE := c.PF_STATE, QIN := c.QIN }

/-! ## Streams -/

/-- An encoder's vector steps over a list of input vectors: the state and the indices, first to last. -/
def encodeAll (C : Cfg α) : List (Vec5 α) → CoreState α → CoreState α × List (BitVec 10)
  | [], s => (s, [])
  | sv :: rest, s =>
    let r := encodeVector C sv s
    let t := encodeAll C rest r.core
    (t.1, r.idx :: t.2)

/-- A decoder's vector steps over a list of indices: the state and the output vectors, first to last. -/
def decodeAll (C : Cfg α) : List (BitVec 10) → CoreState α → CoreState α × List (Vec5 α)
  | [], s => (s, [])
  | idx :: rest, s =>
    let r := decodeVector C idx s
    let t := decodeAll C rest r.core
    (t.1, r.out :: t.2)

/-! ## The tables of an instantiation (40_lpc_core.md R115), for statements about HWIN -/

/-- `SB` of an adapter. -/
def historyOf (s : CoreState α) (ad : Adapter) : List α :=
  match ad with
  | .syn => s.SB_SYN
  | .wgt => s.SB_W
  | .gain => s.SB_G

/-- `REXP` of an adapter. -/
def recursiveOf (s : CoreState α) (ad : Adapter) : List α :=
  match ad with
  | .syn => s.REXP_SYN
  | .wgt => s.REXP_W
  | .gain => s.REXP_G

/-- `L` of an adapter. -/
def frameSizeOf (ad : Adapter) : Nat :=
  match ad with
  | .syn => 20
  | .wgt => 20
  | .gain => 4

/-- `N` of an adapter. -/
def spanOf (C : Cfg α) (ad : Adapter) : Nat :=
  match ad with
  | .syn => C.nonr
  | .wgt => C.nonrw
  | .gain => C.nonrlg

/-- `WN` of an adapter. -/
def windowOf (C : Cfg α) (ad : Adapter) : Nat → α :=
  match ad with
  | .syn => C.wnSyn
  | .wgt => C.wnW
  | .gain => C.wnG

/-- `d` of an adapter. -/
def decayOf (C : Cfg α) (ad : Adapter) : α :=
  match ad with
  | .syn => C.decSyn
  | .wgt => C.decW
  | .gain => C.decG

/-- The order of a BWEXP instantiation (40_lpc_core.md R123). -/
def bwOrder (t : BwTable) : Nat :=
  match t with
  | .syn => 50
  | .wz => 10
  | .wp => 10
  | .g => 10

/-- The decay table of a BWEXP instantiation (40_lpc_core.md R123). -/
def bwTableOf (C : Cfg α) (t : BwTable) : Nat → α :=
  match t with
  | .syn => C.bwSyn
  | .wz => C.bwWz
  | .wp => C.bwWp
  | .g => C.bwG

end Sys2Proof.Machine
end

