-- ==== Sys2Proof/Certificates/Slice0/Obligations.lean ====
section
/-! DEFINITION. The statements for the provers, each from the numbered rules of the spec. `N` below is the decided NUM,
`Sys2Proof.Machine.binary32`; `rd N l i` is `l[i]`; a `t = …` that updates a record says that everything else is unchanged. -/

open Sys2Proof Sys2Proof.Machine

/-! ## Commands and the step -/

/-- 45_controller.md R200. -/
def Obligations.NopChangesNothing : Prop :=
  decode (.cw 0x0000#16) = .ok .nop ∧ ∀ s : State, exec .nop s = .next s

/-- 45_controller.md R201, R202, 10_state.md R52 to R56: the state both INIT commands leave, element by element, whatever
the state was before. The numbers are written as their binary32 fields: `+0`, `1` and `-1`. That PHASE_INIT, the four INIT sets and
MS_FLOOR have their decided values and no other is the model's choice (log 7). -/
def Obligations.InitInstallsTheResetValues : Prop :=
  decode (.cw 0x1000#16) = .ok .initEnc ∧ decode (.cw 0x2000#16) = .ok (.initDec false)
  ∧ decode (.cw 0x2001#16) = .ok (.initDec true)
  ∧ ∀ (s : State) (pf : Bool),
    let zero : B32 := .fin false 0 0
    let one : B32 := .fin false 127 0
    let minusOne : B32 := .fin true 127 0
    let unit : Nat → List B32 := fun n => one :: List.replicate n zero
    let session : Mode → Bool → CoreState B32 := fun mode pfEn =>
      { CTRL := .running, MODE := mode, PF_EN := pfEn, PHASE := .p1, VX := 0, ERR := .none
        A_RDY := false, W_RDY := false, GP_RDY := false
        A_CUR := unit 50, A_PEND := unit 50
        WZ_CUR := unit 10, WP_CUR := unit 10, WZ_PEND := unit 10, WP_PEND := unit 10
        GP_CUR := one :: minusOne :: List.replicate 9 zero, GP_PEND := one :: minusOne :: List.replicate 9 zero
        H := ⟨one, zero, zero, zero, zero⟩
        E := shapen binary32 ⟨one, zero, zero, zero, zero⟩ cfg.cbShape
        GSTATE := List.replicate 10 zero, SYN_MEM := List.replicate 50 zero
        WF_ZMEM := List.replicate 10 zero, WF_PMEM := List.replicate 10 zero
        PWF_ZMEM := List.replicate 10 zero, PWF_PMEM := List.replicate 10 zero
        PF_A10 := unit 10, PF_K1 := zero, PF_STATE := cfg.pfInit
        QIN := List.replicate 60 zero, QEXC := List.replicate 60 zero, QSYN := List.replicate 60 zero
        QLG := List.replicate 12 zero
        SB_SYN := List.replicate (70 + Config.nonr) zero, SB_W := List.replicate (30 + Config.nonrw) zero
        SB_G := List.replicate (14 + Config.nonrlg) zero
        REXP_SYN := List.replicate 51 zero, REXP_W := List.replicate 11 zero, REXP_G := List.replicate 11 zero }
    exec .initEnc s = .next { s with toCoreState := session .enc false }
      ∧ exec (.initDec pf) s = .next { s with toCoreState := session .dec pf }

/-- 10_state.md R51, R57, 70_reset_and_hazards.md R281: power-on and an INIT differ in CTRL, MODE and PF_EN only. -/
def Obligations.PowerOnDiffersFromInitInControlOnly : Prop :=
  State.reset.CTRL = .idle ∧ State.reset.MODE = .enc ∧ State.reset.PF_EN = false
    ∧ exec .initEnc State.reset = .next { State.reset with CTRL := .running, MODE := .enc, PF_EN := false }
    ∧ ∀ pf, exec (.initDec pf) State.reset = .next { State.reset with CTRL := .running, MODE := .dec, PF_EN := pf }

/-- 10_state.md R55: at reset the impulse response is the unit impulse and the energies are the codewords' own. It rests on
the shape table holding finite numbers, the model's reading (log 5). -/
def Obligations.ResetEnergiesAreTheCodewordEnergies : Prop :=
  State.reset.H = ⟨b32OfInt 1, b32Zero, b32Zero, b32Zero, b32Zero⟩ ∧ State.reset.E.length = 128 ∧ ∀ j < 128, rd binary32 State.reset.E j
    = sumFrom binary32 0 5 (fun k => b32Mul (cfg.cbShape j k) (cfg.cbShape j k))

/-- 45_controller.md R205. -/
def Obligations.FinishEndsARunningSession : Prop :=
  decode (.cw 0x5000#16) = .ok .finish ∧ ∀ s : State,
    (s.CTRL = .running → exec .finish s = .next { s with CTRL := .finished })
      ∧ (s.CTRL ≠ .running → exec .finish s = .next { s with ERR := .badState })

/-- 60_exceptions.md R255, 45_controller.md R206: a command whose need is not met writes ERR alone; DIN and DOUT are as they
were. -/
def Obligations.CommandsAreRefusedInTheWrongState : Prop :=
  ∀ s : State,
    (¬ (s.CTRL = .running ∧ s.MODE = .enc) → exec .encVec s = .next { s with ERR := .badState })
      ∧ (¬ (s.CTRL = .running ∧ s.MODE = .dec) → exec .decVec s = .next { s with ERR := .badState })
      ∧ (s.CTRL ≠ .running → exec .finish s = .next { s with ERR := .badState })

/-- 45_controller.md R208: ENC_VEC is its micro-operations in the order of the rule, each run as the instruction it is, with
the elementwise lines 5 and 7 and STEP_END (R212) between and after them. -/
def Obligations.EncVecRunsItsMicroOperationsInOrder : Prop :=
  ∀ (s : State) (sv : Vec5 B32) (rest : List B32),
    s.CTRL = .running → s.MODE = .enc → s.DIN_SMP = sv.toList ++ rest →
    ∃ t1 t2 t3 t4 t5 t6 t7 t8 t9 t10 t11 : State,
      exec .sched s = .next t1
      ∧ exec .ringwr (t1.setLoc { t1.loc with wring := .qin, v := sv }) = .next t2
      ∧ exec .zresp t2 = .next t3
      ∧ exec .pwfilt (t3.setLoc { t3.loc with inp := sv }) = .next t4
      ∧ exec .predgain t4 = .next t5
      ∧ exec .vqsearch (t5.setLoc { t5.loc with
          xn := ⟨b32Div (b32Sub t5.loc.v.v0 t5.loc.zw.v0) t5.loc.gain, b32Div (b32Sub t5.loc.v.v1 t5.loc.zw.v1) t5.loc.gain,
            b32Div (b32Sub t5.loc.v.v2 t5.loc.zw.v2) t5.loc.gain, b32Div (b32Sub t5.loc.v.v3 t5.loc.zw.v3) t5.loc.gain,
            b32Div (b32Sub t5.loc.v.v4 t5.loc.zw.v4) t5.loc.gain⟩ }) = .next t6
      ∧ exec .excite t6 = .next t7
      ∧ exec .ringwr (t7.setLoc { t7.loc with wring := .qexc, v := t7.loc.et }) = .next t8
      ∧ exec .updgain t8 = .next t9
      ∧ exec .memupd t9 = .next t10
      ∧ exec .ringwr (t10.setLoc { t10.loc with wring := .qsyn, v := t10.loc.sq }) = .next t11
      ∧ exec .encVec s = .next { s with
          toCoreState := { t11.toCoreState with VX := nextSlot t11.VX, PHASE := nextPhase t11.PHASE }
          DIN_SMP := rest
          DOUT_IDX := s.DOUT_IDX ++ [BitVec.ofNat 8 (t6.loc.idx.toNat / 256), BitVec.ofNat 8 (t6.loc.idx.toNat % 256)] }

/-- 45_controller.md R207, R208, R212, 30_encoding.md R91, R95, 20_memory.md R67: what an accepted ENC_VEC leaves, wherever the signal: one index
word, the input in its slot of QIN, the two counters advanced, the postfilter and the decoder's ports untouched. -/
def Obligations.EncVecEmitsOneIndexWord : Prop :=
  ∀ (s : State) (sv : Vec5 B32) (rest : List B32),
    s.CTRL = .running → s.MODE = .enc → s.DIN_SMP = sv.toList ++ rest → s.QIN.length = 60 →
    ∃ (t : State) (b0 b1 : Byte),
      exec .encVec s = .next t
      ∧ t.DOUT_IDX = s.DOUT_IDX ++ [b0, b1] ∧ b0.toNat ≤ 3 ∧ t.DIN_SMP = rest
      ∧ t.VX.val = (s.VX.val + 1) % 12 ∧ t.PHASE.toNat = s.PHASE.toNat % 4 + 1
      ∧ t.CTRL = .running ∧ t.MODE = .enc ∧ t.PF_EN = s.PF_EN ∧ t.ERR = s.ERR ∧ t.PF_STATE = s.PF_STATE
      ∧ t.CMD = s.CMD ∧ t.DIN_IDX = s.DIN_IDX ∧ t.DOUT_SMP = s.DOUT_SMP ∧ t.loc = s.loc ∧ t.bench = s.bench
      ∧ (∀ k < 5, rd binary32 t.QIN (5 * s.VX.val + k) = sv.get k)
      ∧ (∀ i, i < 5 * s.VX.val ∨ 5 * s.VX.val + 5 ≤ i → rd binary32 t.QIN i = rd binary32 s.QIN i)

/-- The model's choice (log 10), from 30_encoding.md R86 ("supplied whole before the command starts"): while fewer than
five samples stand on DIN an accepted ENC_VEC waits on CMD and changes nothing. -/
def Obligations.EncVecWaitsForItsFiveSamples : Prop :=
  ∀ s : State, s.CTRL = .running → s.MODE = .enc → s.DIN_SMP.length < 5 →
    exec .encVec s = .next { s with CMD := 0x3000#16 :: s.CMD }

/-- 45_controller.md R214: DEC_VEC is its micro-operations in the order of the rule, each run as the instruction it is; the
index word itself stands for the excitation (30_encoding.md R96). That line 3 of the rule, EXCITE of the index, is run as the
index word is the model's choice (log 13). -/
def Obligations.DecVecRunsItsMicroOperationsInOrder : Prop :=
  ∀ (s : State) (b0 b1 : Byte) (rest : List Byte) (shape gain : Nat),
    s.CTRL = .running → s.MODE = .dec → s.DIN_IDX = b0 :: b1 :: rest →
    decode (.iw b0 b1) = .ok (.index shape gain) →
    ∃ t1 t2 t3 t4 t5 t6 t7 t8 t9 : State,
      exec .sched s = .next t1
      ∧ exec .predgain t1 = .next t2
      ∧ exec (.index shape gain) t2 = .next t3
      ∧ exec .ringwr (t3.setLoc { t3.loc with wring := .qexc, v := t3.loc.et }) = .next t4
      ∧ exec .updgain t4 = .next t5
      ∧ exec .memupd t5 = .next t6
      ∧ exec .ringwr (t6.setLoc { t6.loc with wring := .qsyn, v := t6.loc.sq }) = .next t7
      ∧ (s.PF_EN = true → exec .postfilt t7 = .next t8)
      ∧ (s.PF_EN = false → t8 = t7.setLoc { t7.loc with out := t7.loc.sq })
      ∧ exec .ringwr (t8.setLoc { t8.loc with wring := .qin, v := t8.loc.out }) = .next t9
      ∧ exec .decVec s = .next { s with
          toCoreState := { t9.toCoreState with VX := nextSlot t9.VX, PHASE := nextPhase t9.PHASE }
          DIN_IDX := rest
          DOUT_SMP := s.DOUT_SMP ++ t8.loc.out.toList }

/-- 43_filters.md R167 d, 45_controller.md R212, R214: what an accepted DEC_VEC of an unpostfiltered decoder delivers: five
samples inside the clamp range, the same five in QSYN and QIN, the two counters advanced, and no memory of the encoder's
input path touched. -/
def Obligations.UnpostfilteredOutputIsClampedAndStored : Prop :=
  ∀ (s : State) (b0 b1 : Byte) (rest : List Byte) (shape gain : Nat),
    s.CTRL = .running → s.MODE = .dec → s.PF_EN = false → s.DIN_IDX = b0 :: b1 :: rest →
    decode (.iw b0 b1) = .ok (.index shape gain) →
    s.QIN.length = 60 → s.QSYN.length = 60 → s.SYN_MEM.length = 50 →
    ∃ (t : State) (out : Vec5 B32),
      exec .decVec s = .next t
      ∧ t.DOUT_SMP = s.DOUT_SMP ++ out.toList ∧ t.DIN_IDX = rest
      ∧ (∀ k < 5, InClampRange cfg (out.get k))
      ∧ (∀ k < 5, rd binary32 t.QSYN (5 * s.VX.val + k) = out.get k ∧ rd binary32 t.QIN (5 * s.VX.val + k) = out.get k)
      ∧ (∀ i, i < 5 * s.VX.val ∨ 5 * s.VX.val + 5 ≤ i →
          rd binary32 t.QSYN i = rd binary32 s.QSYN i ∧ rd binary32 t.QIN i = rd binary32 s.QIN i)
      ∧ t.VX.val = (s.VX.val + 1) % 12 ∧ t.PHASE.toNat = s.PHASE.toNat % 4 + 1
      ∧ t.CTRL = .running ∧ t.MODE = .dec ∧ t.PF_EN = false ∧ t.ERR = s.ERR ∧ t.PF_STATE = s.PF_STATE
      ∧ t.PWF_ZMEM = s.PWF_ZMEM ∧ t.PWF_PMEM = s.PWF_PMEM
      ∧ t.CMD = s.CMD ∧ t.DIN_SMP = s.DIN_SMP ∧ t.DOUT_IDX = s.DOUT_IDX ∧ t.loc = s.loc ∧ t.bench = s.bench

/-- 45_controller.md R213, 60_exceptions.md R252, R253, R256: the three ways a DEC_VEC ends a session. Of the spec's state
only CTRL and ERR change. That the bytes read are taken from DIN is the model's choice (log 11). R264: no fatal condition
follows in FINISHED, whatever word is run there; a refusal writes ERR, and only an INIT leads on. What a bare index word out
of range does there is the model's choice (log 16). -/
def Obligations.DecVecEndsTheSessionPrecisely : Prop :=
  (∀ s : State, s.CTRL = .running → s.MODE = .dec →
    (s.DIN_IDX = [] → exec .decVec s = .next { s with CTRL := .finished })
      ∧ (∀ b, s.DIN_IDX = [b] → exec .decVec s = .next { s with CTRL := .finished, ERR := .truncated, DIN_IDX := [] })
      ∧ (∀ b0 b1 rest, s.DIN_IDX = b0 :: b1 :: rest → 1024 ≤ b0.toNat * 256 + b1.toNat →
          exec .decVec s = .next { s with CTRL := .finished, ERR := .indexRange, DIN_IDX := rest }))
  ∧ ∀ s t : State, s.CTRL = .finished → step s = .next t →
      (t.CTRL = .finished ∧ (t.ERR = s.ERR ∨ t.ERR = .illegalCmd ∨ t.ERR = .badState))
        ∨ (t.CTRL = .running ∧ t.ERR = .none)

/-- 30_encoding.md R102, 60_exceptions.md R254: an illegal command word on CMD writes ERR alone. -/
def Obligations.IllegalCommandWordsAreRefused : Prop :=
  ∀ (s : State) (w : HalfWord) (rest : List HalfWord), s.bench = none → s.CMD = w :: rest →
    (6 ≤ w.toNat / 4096 ∨ (w.toNat / 4096 = 2 ∧ 2 ≤ w.toNat % 4096)
      ∨ (w.toNat / 4096 ≤ 5 ∧ w.toNat / 4096 ≠ 2 ∧ w.toNat % 4096 ≠ 0)) →
    step s = .next { s with CMD := rest, ERR := .illegalCmd }

/-- A step runs the decoded instruction: the command word at the head of CMD leaves the port and its instruction runs on what
is then there. A word on the bench, the model's own field (log 14), is run first and leaves it. -/
def Obligations.StepRunsTheDecodedInstruction : Prop :=
  (∀ (s : State) (w : HalfWord) (rest : List HalfWord) (i : Instr),
    s.bench = none → s.CMD = w :: rest → decode (.cw w) = .ok i → step s = exec i { s with CMD := rest })
  ∧ ∀ (s : State) (p : CodeWord) (i : Instr),
    s.bench = some p → decode p = .ok i → step s = exec i { s with bench := none }

/-- 60_exceptions.md R271: between commands all state is held. -/
def Obligations.IdleStepHoldsAllState : Prop :=
  ∀ s : State, s.bench = none → s.CMD = [] → step s = .next s

/-! ## Encodings -/

/-- 30_encoding.md R100, R108, R109: words written out from the encodings. -/
def Obligations.WrittenOutWordsDecode : Prop :=
  decode (.iw 0x02#8 0x03#8) = .ok (.index 64 3)
    ∧ decode (.iw 0x03#8 0xFF#8) = .ok (.index 127 7)
    ∧ decode (.iw 0x00#8 0x0C#8) = .ok (.index 1 4)
    ∧ decode (.iw 0x00#8 0x00#8) = .ok (.index 0 0)
    ∧ encode (.index 0 0) = .iw 0x00#8 0x00#8 ∧ encode (.index 64 3) = .iw 0x02#8 0x03#8
    ∧ encode (.index 127 7) = .iw 0x03#8 0xFF#8 ∧ encode (.index 1 4) = .iw 0x00#8 0x0C#8
    ∧ encode (.initDec true) = .cw 0x2001#16 ∧ encode (.initDec false) = .cw 0x2000#16 ∧ encode .encVec = .cw 0x3000#16
    ∧ decode (.iw 0x04#8 0x00#8) = .error .indexRange
    ∧ decode (.iw 0x80#8 0x01#8) = .error .indexRange
    ∧ decode (.cw 0x2001#16) = .ok (.initDec true)
    ∧ decode (.cw 0x2000#16) = .ok (.initDec false)
    ∧ decode (.cw 0x3000#16) = .ok .encVec
    ∧ decode (.cw 0x2002#16) = .error .illegalCommand
    ∧ decode (.cw 0x6000#16) = .error .illegalCommand
    ∧ decode (.cw 0x0001#16) = .error .illegalCommand
    ∧ decode (.mw 0x16#8) = .ok .sched
    ∧ decode (.mw 0x71#8) = .ok .pcmOut

/-- Decoding the encoding of a well-formed instruction gives it back, every operand at every value. -/
def Obligations.DecodeOfEncodeIsTheInstruction : Prop :=
  ∀ i : Instr, i.WellFormed → decode (encode i) = .ok i

/-- Each word has at most one meaning: a word that decodes is the encoding of what it decodes to, and that is
well-formed. -/
def Obligations.EncodeOfDecodeIsTheWord : Prop :=
  ∀ (p : CodeWord) (i : Instr), decode p = .ok i → i.WellFormed ∧ encode i = p

/-! ## Rings -/

/-- 20_memory.md R66: within its precondition RINGRD answers the window, oldest first, and writes no element of the state. -/
def Obligations.RingrdReadsTheWindow : Prop :=
  decode (.mw 0x50#8) = .ok .ringrd ∧ ∀ s : State, s.loc.len ≤ ringLength s.loc.ring → ∃ w : List B32,
    exec .ringrd s = .next { s with loc := { s.loc with new := w } }
      ∧ w.length = s.loc.len
      ∧ ∀ n < s.loc.len,
          (∀ q, s.loc.ring = .speech q →
            rd binary32 w n = rd binary32 (ringOf s.toCoreState (.speech q))
              (((5 * s.VX.val : Int) - s.loc.len + n) % 60).toNat)
          ∧ (s.loc.ring = .qlg →
            rd binary32 w n = rd binary32 s.QLG (((s.VX.val : Int) - s.loc.len + n) % 12).toNat)

/-- 20_memory.md R67: RINGWR writes the five samples of slot VX of its ring; every other sample, and every other element,
is as it was. -/
def Obligations.RingwrWritesItsSlotOnly : Prop :=
  ∀ (s : State) (q : SpeechRing), s.loc.wring = q → (ringOf s.toCoreState (.speech q)).length = 60 →
    ∃ (t : State) (l : List B32),
      exec .ringwr s = .next t
      ∧ (q = .qin → t = { s with QIN := l }) ∧ (q = .qexc → t = { s with QEXC := l })
      ∧ (q = .qsyn → t = { s with QSYN := l })
      ∧ l.length = 60
      ∧ (∀ k < 5, rd binary32 l (5 * s.VX.val + k) = s.loc.v.get k)
      ∧ (∀ i, i < 5 * s.VX.val ∨ 5 * s.VX.val + 5 ≤ i →
          rd binary32 l i = rd binary32 (ringOf s.toCoreState (.speech q)) i)

/-! ## Linear prediction core -/

/-- 40_lpc_core.md R111, R115: what HWIN leaves in the history, the recursive part and the result, for each adapter. -/
def Obligations.HwinShiftsWindowsAndAccumulates : Prop :=
  decode (.mw 0x01#8) = .ok .hwin ∧ ∀ (s : State) (ad : Adapter), s.loc.adapter = ad →
    let M := adapterOrder ad
    let L := frameSizeOf ad
    let n3 := M + L + spanOf cfg ad
    ∃ sb rexp r : List B32,
      exec .hwin s = .next ((s.setCore (storeHwin ad s.toCoreState { R := r, SB := sb, REXP := rexp })).setLoc
        { s.loc with R := r })
      ∧ sb.length = n3 ∧ rexp.length = M + 1 ∧ r.length = M + 1
      ∧ (∀ n < n3 - L, rd binary32 sb n = rd binary32 (historyOf s.toCoreState ad) (n + L))
      ∧ (∀ n < L, rd binary32 sb (n3 - L + n) = rd binary32 s.loc.new n)
      ∧ (let ws : Nat → B32 := fun n => b32Mul (rd binary32 sb n) (windowOf cfg ad n)
         let spans : Nat → B32 := fun i => b32Add (rd binary32 rexp i)
           (sumFrom binary32 (M + L) (spanOf cfg ad) (fun n => b32Mul (ws n) (ws (n - i))))
         (∀ i ≤ M, rd binary32 rexp i
            = b32Add (b32Mul (decayOf cfg ad) (rd binary32 (recursiveOf s.toCoreState ad) i))
                (sumFrom binary32 M L (fun n => b32Mul (ws n) (ws (n - i)))))
         ∧ rd binary32 r 0 = b32Mul (spans 0) cfg.wncf
         ∧ (∀ i, 1 ≤ i → i ≤ M → rd binary32 r i = spans i))

/-- 40_lpc_core.md R116, R117: LEVDUR on the decided NUM, the recursion written out. `c m k` is the coefficient `a[k]` and
`alpha m` the residual energy after order `m`. It succeeds exactly when the terminal lag is not zero, lag 0 is positive and no
residual energy is at or below zero; it then answers the coefficients of order `M`. On failure the latch `a` is as it was (log
12). No element of the spec's state changes. -/
def Obligations.LevdurAnswersOrFailsSafely : Prop :=
  ∀ s : State,
    let M := adapterOrder s.loc.adapter
    let R := fun i => rd binary32 s.loc.R i
    ∃ (c : Nat → Nat → B32) (alpha : Nat → B32),
      c 1 0 = b32OfInt 1 ∧ c 1 1 = b32Neg (b32Div (R 1) (R 0)) ∧ alpha 1 = b32Add (R 0) (b32Mul (R 1) (c 1 1))
      ∧ (∀ m, 2 ≤ m → m ≤ M →
          let sum := sumFrom binary32 0 m (fun k => b32Mul (c (m - 1) k) (R (m - k)))
          let rc := b32Neg (b32Div sum (alpha (m - 1)))
          c m 0 = c (m - 1) 0
          ∧ (∀ k, 1 ≤ k → k < m → c m k = b32Add (c (m - 1) k) (b32Mul rc (c (m - 1) (m - k))))
          ∧ c m m = rc ∧ alpha m = b32Add (alpha (m - 1)) (b32Mul rc sum))
      ∧ (let passed := !b32Eq (R M) b32Zero && !b32Le (R 0) b32Zero
            && (List.range' 1 M).all (fun m => !b32Le (alpha m) b32Zero)
         exec .levdur s = .next { s with loc :=
           if passed then { s.loc with a := (List.range (M + 1)).map (c M), ok := true } else { s.loc with ok := false } })

/-- 40_lpc_core.md R116, in exact arithmetic: on success the coefficients start with 1 and solve the order-`M` normal
equations of the autocorrelation. -/
def Obligations.LevdurSolvesTheNormalEquations : Prop :=
  ∀ (K : Type) [Field K] [LinearOrder K] [IsStrictOrderedRing K] (lg pw : K → K) (rnd : K → Int)
    (R a : List K) (M : Nat), 1 ≤ M →
    levdur (exactNum K lg pw rnd) R M = some a →
    a.length = M + 1 ∧ rd (exactNum K lg pw rnd) a 0 = 1
      ∧ ∀ i, 1 ≤ i → i ≤ M →
        ∑ k ∈ Finset.range (M + 1),
          rd (exactNum K lg pw rnd) a k * rd (exactNum K lg pw rnd) R (if k ≤ i then i - k else k - i) = 0

/-- 40_lpc_core.md R118 c, in exact arithmetic: the residual energy stays positive and does not rise from one order to the
next, and every reflection coefficient is below 1 in magnitude. -/
def Obligations.LevdurResidualEnergyNeverRises : Prop :=
  ∀ (K : Type) [Field K] [LinearOrder K] [IsStrictOrderedRing K] (lg pw : K → K) (rnd : K → Int) (R : List K),
    (∀ (M : Nat) (st : LevState K), levStart (exactNum K lg pw rnd) R M = some st →
      0 < st.alpha ∧ st.alpha ≤ rd (exactNum K lg pw rnd) R 0 ∧ |st.k1| < 1)
    ∧ (∀ (m : Nat) (st st' : LevState K), 2 ≤ m → 0 < st.alpha →
      levStep (exactNum K lg pw rnd) R st m = some st' →
      0 < st'.alpha ∧ st'.alpha ≤ st.alpha ∧ |rd (exactNum K lg pw rnd) st'.a m| < 1)

/-- 40_lpc_core.md R119, R120: LEVDUR_SYN is LEVDUR of order 50; on success it caches the first reflection coefficient and the
order-10 solution of the same autocorrelation; on failure it writes nothing. -/
def Obligations.LevdurSynCachesOnSuccessOnly : Prop :=
  ∀ s : State, ∃ t : State,
    exec .levdurSyn s = .next t
      ∧ (t.loc.ok = false → levdur binary32 s.loc.R 50 = none ∧ t = { s with loc := { s.loc with ok := false } })
      ∧ (t.loc.ok = true →
          levdur binary32 s.loc.R 50 = some t.loc.a
          ∧ t = { s with
              PF_K1 := b32Neg (b32Div (rd binary32 s.loc.R 1) (rd binary32 s.loc.R 0)), PF_A10 := t.PF_A10
              loc := { s.loc with a := t.loc.a, ok := true } }
          ∧ (b32Eq (rd binary32 s.loc.R 10) b32Zero = false → levdur binary32 s.loc.R 10 = some t.PF_A10))

/-- 40_lpc_core.md R122, R123: `out[i] = a[i]·dv[i]` for each of the four tables, whose entry 0 is 1. -/
def Obligations.BwexpScalesEachCoefficient : Prop :=
  ∀ s : State, ∃ b : List B32,
    exec .bwexp s = .next { s with loc := { s.loc with bx := b } }
      ∧ b.length = bwOrder s.loc.bw + 1
      ∧ (∀ i ≤ bwOrder s.loc.bw, rd binary32 b i = b32Mul (rd binary32 s.loc.a i) (bwTableOf cfg s.loc.bw i))
      ∧ bwTableOf cfg s.loc.bw 0 = binary32.one

/-! ## Adapters, commits, schedule -/

/-- 41_adapters.md R131: ADAPT_SYN's window, and what it writes where the recursion fails and where it succeeds. -/
def Obligations.AdaptSynWritesPendingOnSuccessOnly : Prop :=
  decode (.mw 0x10#8) = .ok .adaptSyn ∧ ∀ s : State,
    let new := tabulate 20 (fun n => rd binary32 s.QSYN (((5 * s.VX.val : Int) - 20 + n) % 60).toNat)
    let h := hwin binary32 50 20 cfg.nonr s.SB_SYN new cfg.wnSyn s.REXP_SYN cfg.decSyn cfg.wncf
    exec .adaptSyn s = .next ((levdurSyn binary32 h.R).elim
      { s with SB_SYN := h.SB, REXP_SYN := h.REXP }
      (fun r => { s with
        SB_SYN := h.SB, REXP_SYN := h.REXP, A_PEND := bwexp binary32 r.a cfg.bwSyn 50, A_RDY := true
        PF_K1 := r.k1, PF_A10 := r.a10 }))

/-- 41_adapters.md R134: ADAPT_GAIN. -/
def Obligations.AdaptGainWritesPendingOnSuccessOnly : Prop :=
  decode (.mw 0x11#8) = .ok .adaptGain ∧ ∀ s : State,
    let new := tabulate 4 (fun n => rd binary32 s.QLG (((s.VX.val : Int) - 4 + n) % 12).toNat)
    let h := hwin binary32 10 4 cfg.nonrlg s.SB_G new cfg.wnG s.REXP_G cfg.decG cfg.wncf
    exec .adaptGain s = .next ((levdur binary32 h.R 10).elim
      { s with SB_G := h.SB, REXP_G := h.REXP }
      (fun a => { s with SB_G := h.SB, REXP_G := h.REXP, GP_PEND := bwexp binary32 a cfg.bwG 10, GP_RDY := true }))

/-- 41_adapters.md R136, R137: ADAPT_WGT reads QIN in an encoder and QSYN in a decoder. -/
def Obligations.AdaptWgtWritesPendingOnSuccessOnly : Prop :=
  decode (.mw 0x12#8) = .ok .adaptWgt ∧ ∀ s : State,
    let src := if s.MODE = .enc then s.QIN else s.QSYN
    let new := tabulate 20 (fun n => rd binary32 src (((5 * s.VX.val : Int) - 20 + n) % 60).toNat)
    let h := hwin binary32 10 20 cfg.nonrw s.SB_W new cfg.wnW s.REXP_W cfg.decW cfg.wncf
    exec .adaptWgt s = .next ((levdur binary32 h.R 10).elim
      { s with SB_W := h.SB, REXP_W := h.REXP }
      (fun a => { s with
        SB_W := h.SB, REXP_W := h.REXP, WZ_PEND := bwexp binary32 a cfg.bwWz 10
        WP_PEND := bwexp binary32 a cfg.bwWp 10, W_RDY := true }))

/-- 40_lpc_core.md R113 a, 41_adapters.md R139: on an all-zero history an adapter fails and changes nothing at all. It rests
on the tables being finite numbers, the model's reading (log 5). -/
def Obligations.ZeroEnergyAdaptersChangeNothing : Prop :=
  ∀ s : State,
    let z := fun n => List.replicate n b32Zero
    (s.QSYN = z 60 → s.SB_SYN = z (70 + cfg.nonr) → s.REXP_SYN = z 51 → exec .adaptSyn s = .next s)
      ∧ (s.QLG = z 12 → s.SB_G = z (14 + cfg.nonrlg) → s.REXP_G = z 11 → exec .adaptGain s = .next s)
      ∧ (s.QIN = z 60 → s.QSYN = z 60 → s.SB_W = z (30 + cfg.nonrw) → s.REXP_W = z 11 →
          exec .adaptWgt s = .next s)

/-- 41_adapters.md R140 to R142. -/
def Obligations.CommitsCopyPendingExactlyWhenReady : Prop :=
  decode (.mw 0x13#8) = .ok .commitSyn ∧ decode (.mw 0x14#8) = .ok .commitGain
  ∧ decode (.mw 0x15#8) = .ok .commitWgt ∧ ∀ s : State,
    (s.A_RDY = true → exec .commitSyn s = .next { s with A_CUR := s.A_PEND, A_RDY := false })
      ∧ (s.A_RDY = false → exec .commitSyn s = .next s)
      ∧ (s.GP_RDY = true → exec .commitGain s = .next { s with GP_CUR := s.GP_PEND, GP_RDY := false })
      ∧ (s.GP_RDY = false → exec .commitGain s = .next s)
      ∧ (s.W_RDY = true →
          exec .commitWgt s = .next { s with WZ_CUR := s.WZ_PEND, WP_CUR := s.WP_PEND, W_RDY := false })
      ∧ (s.W_RDY = false → exec .commitWgt s = .next s)

/-- 41_adapters.md R144, R145: SCHED is the phase's micro-operations, each run as the instruction it is. -/
def Obligations.SchedRunsThePhaseActions : Prop :=
  ∀ s : State,
    (s.PHASE = .p1 → ∃ t1, exec .adaptSyn s = .next t1 ∧ exec .sched s = .next t1)
      ∧ (s.PHASE = .p2 → ∃ t1 t2, exec .adaptGain s = .next t1 ∧ exec .commitGain t1 = .next t2
          ∧ exec .sched s = .next t2)
      ∧ (s.PHASE = .p3 → ∃ t1 t2 t3 t4 t5, exec .commitSyn s = .next t1 ∧ exec .adaptWgt t1 = .next t2
          ∧ exec .commitWgt t2 = .next t3 ∧ exec .iresp t3 = .next t4 ∧ exec .shapen t4 = .next t5
          ∧ exec .sched s = .next t5)
      ∧ (s.PHASE = .p4 → exec .sched s = .next s)

/-! ## Gain predictor -/

/-- 42_gain_predictor.md R151. That its literal 0.05 is the binary32 number nearest to it is the model's reading (log 2). -/
def Obligations.PredgainPredictsFromTheHistory : Prop :=
  ∀ s : State,
    let p := sumFrom binary32 1 10 (fun i => b32Mul (rd binary32 s.GP_CUR i) (rd binary32 s.GSTATE (i - 1)))
    let raw := b32Sub cfg.goff p
    let db := if b32Lt raw b32Zero then b32Zero else if b32Lt (b32OfInt 60) raw then b32OfInt 60 else raw
    exec .predgain s = .next { s with loc := { s.loc with gain := pow10 (b32Mul (b32OfRatio 1 20) db) } }

/-- 42_gain_predictor.md R151, R152: the predicted gain is strictly positive whenever the predicted log-gain is a number
(a NaN history gives whatever NUM gives, 93 U7). -/
def Obligations.PredictedGainIsPositive : Prop :=
  ∀ s : State, b32IsNumber (predictedDb binary32 cfg.goff s.GP_CUR s.GSTATE) = true →
    ∃ t, exec .predgain s = .next t ∧ b32Lt b32Zero t.loc.gain = true

/-- 42_gain_predictor.md R152 a: with the named property of pow10 the predicted gain lies in [1, 1000], the rounding of
binary32 included. -/
def Obligations.PredictedGainLiesBetweenOneAndAThousand : Prop :=
  ∀ s : State, b32IsNumber (predictedDb binary32 cfg.goff s.GP_CUR s.GSTATE) = true →
    ∃ t, exec .predgain s = .next t ∧ b32Le (b32OfInt 1) t.loc.gain = true ∧ b32Le t.loc.gain (b32OfInt 1000) = true

/-- 42_gain_predictor.md R153, R154: UPDGAIN pushes the floored log-RMS of `et` into GSTATE and puts it at `QLG[VX]`; every
other entry is as it was or one place older. -/
def Obligations.UpdgainPushesTheLogGain : Prop :=
  decode (.mw 0x21#8) = .ok .updgain ∧ ∀ s : State, s.GSTATE.length = 10 → s.QLG.length = 12 →
    let et := s.loc.et
    let raw := b32Div (sumFrom binary32 0 5 (fun k => b32Mul (et.get k) (et.get k))) (b32OfInt 5)
    let ms := if b32Lt raw cfg.msFloor then cfg.msFloor else raw
    let lg := b32Sub (b32Mul (b32OfInt 10) (log10 ms)) cfg.goff
    ∃ q : List B32,
      exec .updgain s = .next { s with GSTATE := lg :: s.GSTATE.take 9, QLG := q }
      ∧ q.length = 12 ∧ rd binary32 q s.VX.val = lg
      ∧ ∀ i, i ≠ s.VX.val → rd binary32 q i = rd binary32 s.QLG i

/-! ## Filters -/

/-- 43_filters.md R160, R161: PWFILT's five outputs by the difference equation, and its memory after. -/
def Obligations.PwfiltFollowsTheDifferenceEquation : Prop :=
  decode (.mw 0x30#8) = .ok .pwfilt ∧ ∀ s : State, s.PWF_ZMEM.length = 10 → s.PWF_PMEM.length = 10 →
    ∃ v : Vec5 B32,
      exec .pwfilt s = .next { s with
        PWF_ZMEM := s.loc.inp.toList.reverse ++ s.PWF_ZMEM.take 5, PWF_PMEM := v.toList.reverse ++ s.PWF_PMEM.take 5
        loc := { s.loc with v := v } }
      ∧ ∀ k < 5, v.get k = b32Sub
          (b32Add (s.loc.inp.get k) (taps binary32 s.WZ_CUR ((s.loc.inp.toList.take k).reverse ++ s.PWF_ZMEM) 10))
          (taps binary32 s.WP_CUR ((v.toList.take k).reverse ++ s.PWF_PMEM) 10)

/-- 43_filters.md R164: ZRESP's two responses by the difference equations with zero input; no element of the spec's state
changes. -/
def Obligations.ZrespIsTheZeroInputResponse : Prop :=
  decode (.mw 0x31#8) = .ok .zresp ∧ ∀ s : State, s.SYN_MEM.length = 50 → s.WF_ZMEM.length = 10 → s.WF_PMEM.length = 10 →
    ∃ zs zw : Vec5 B32,
      exec .zresp s = .next { s with loc := { s.loc with zs := zs, zw := zw } }
      ∧ (∀ k < 5, zs.get k = b32Sub b32Zero (taps binary32 s.A_CUR ((zs.toList.take k).reverse ++ s.SYN_MEM) 50))
      ∧ (∀ k < 5, zw.get k = b32Sub
          (b32Add (zs.get k) (taps binary32 s.WZ_CUR ((zs.toList.take k).reverse ++ s.WF_ZMEM) 10))
          (taps binary32 s.WP_CUR ((zw.toList.take k).reverse ++ s.WF_PMEM) 10))

/-- 43_filters.md R166: MEMUPD runs on unclamped values inside the vector, clamps the five new entries of SYN_MEM once, leaves
the weighting memories unclamped, and answers the clamped entries oldest first. -/
def Obligations.MemupdFiltersThenClampsOnce : Prop :=
  decode (.mw 0x32#8) = .ok .memupd ∧ ∀ s : State, s.SYN_MEM.length = 50 → s.WF_ZMEM.length = 10 → s.WF_PMEM.length = 10 →
    ∃ x w : Vec5 B32,
      let cl : B32 → B32 := fun y => if b32Lt y cfg.stateMin then cfg.stateMin
        else if b32Lt cfg.stateMax y then cfg.stateMax else y
      let sq : Vec5 B32 := ⟨cl x.v0, cl x.v1, cl x.v2, cl x.v3, cl x.v4⟩
      exec .memupd s = .next { s with
        SYN_MEM := sq.toList.reverse ++ s.SYN_MEM.take 45
        WF_ZMEM := x.toList.reverse ++ s.WF_ZMEM.take 5, WF_PMEM := w.toList.reverse ++ s.WF_PMEM.take 5
        loc := { s.loc with sq := sq } }
      ∧ (∀ k < 5, x.get k = b32Sub (s.loc.et.get k)
          (taps binary32 s.A_CUR ((x.toList.take k).reverse ++ s.SYN_MEM) 50))
      ∧ (∀ k < 5, w.get k = b32Sub
          (b32Add (x.get k) (taps binary32 s.WZ_CUR ((x.toList.take k).reverse ++ s.WF_ZMEM) 10))
          (taps binary32 s.WP_CUR ((w.toList.take k).reverse ++ s.WF_PMEM) 10))

/-- 43_filters.md R168, in exact arithmetic: the cascade driven by an excitation is its zero-input response plus the
convolution of the excitation with the impulse responses IRESP computes. -/
def Obligations.CascadeSuperposes : Prop :=
  ∀ (K : Type) [Field K] [LinearOrder K] [IsStrictOrderedRing K] (lg pw : K → K) (rnd : K → Int)
    (A wz wp : List K) (m : CMem K) (et : Vec5 K),
    m.syn.length = 50 → m.w.z.length = 10 → m.w.p.length = 10 →
    let N := exactNum K lg pw rnd
    let driven := (scan5 (cascadeStep N A wz wp) m et).2
    let zero := zresp N A wz wp m
    ∀ k < 5,
      (driven.get k).1 = zero.1.get k
        + ∑ i ∈ Finset.range (k + 1), rd N (impulse N A wz wp).s (k - i) * et.get i
      ∧ (driven.get k).2 = zero.2.get k
        + ∑ i ∈ Finset.range (k + 1), (iresp N A wz wp).get (k - i) * et.get i

/-- 43_filters.md R170: IRESP's five samples by the two recursions; only H changes. -/
def Obligations.IrespComputesTheImpulseResponse : Prop :=
  decode (.mw 0x33#8) = .ok .iresp ∧ ∀ s : State, ∃ g h : Vec5 B32,
    exec .iresp s = .next { s with H := h }
      ∧ (∀ k < 5, g.get k = b32Sub (if k = 0 then b32OfInt 1 else b32Zero)
          (sumFrom binary32 1 k (fun i => b32Mul (rd binary32 s.A_CUR i) (g.get (k - i)))))
      ∧ (∀ k < 5, h.get k = b32Sub
          (b32Add (g.get k) (sumFrom binary32 1 k (fun i => b32Mul (rd binary32 s.WZ_CUR i) (g.get (k - i)))))
          (sumFrom binary32 1 k (fun i => b32Mul (rd binary32 s.WP_CUR i) (h.get (k - i)))))

/-- 43_filters.md R172: SHAPEN's 128 energies; only E changes. -/
def Obligations.ShapenComputesTheShapeEnergies : Prop :=
  decode (.mw 0x34#8) = .ok .shapen ∧ ∀ s : State, ∃ e : List B32,
    exec .shapen s = .next { s with E := e } ∧ e.length = 128
      ∧ ∀ j < 128,
          let c : Nat → B32 := fun k =>
            sumFrom binary32 0 (k + 1) (fun i => b32Mul (s.H.get (k - i)) (cfg.cbShape j i))
          rd binary32 e j = sumFrom binary32 0 5 (fun k => b32Mul (c k) (c k))

/-! ## Vector quantizer -/

/-- 44_vq.md R181: the triangular correlation written out; no element of the spec's state changes. -/
def Obligations.TrevconvIsTheTriangularCorrelation : Prop :=
  decode (.mw 0x40#8) = .ok .trevconv ∧ ∀ s : State,
    let x := s.loc.xn
    let h := s.H
    let z := b32Zero
    exec .trevconv s = .next { s with loc := { s.loc with pn :=
      ⟨b32Add (b32Add (b32Add (b32Add (b32Add z (b32Mul x.v0 h.v0)) (b32Mul x.v1 h.v1)) (b32Mul x.v2 h.v2))
          (b32Mul x.v3 h.v3)) (b32Mul x.v4 h.v4),
        b32Add (b32Add (b32Add (b32Add z (b32Mul x.v1 h.v0)) (b32Mul x.v2 h.v1)) (b32Mul x.v3 h.v2)) (b32Mul x.v4 h.v3),
        b32Add (b32Add (b32Add z (b32Mul x.v2 h.v0)) (b32Mul x.v3 h.v1)) (b32Mul x.v4 h.v2),
        b32Add (b32Add z (b32Mul x.v3 h.v0)) (b32Mul x.v4 h.v1),
        b32Add z (b32Mul x.v4 h.v0)⟩ } }

/-- 44_vq.md R182, in exact arithmetic. -/
def Obligations.TrevconvIsAdjointToFiltering : Prop :=
  ∀ (K : Type) [Field K] [LinearOrder K] [IsStrictOrderedRing K] (lg pw : K → K) (rnd : K → Int)
    (H xn : Vec5 K) (y : Nat → K),
    let N := exactNum K lg pw rnd
    ∑ k ∈ Finset.range 5, (trevconv N H xn).get k * y k = ∑ k ∈ Finset.range 5, xn.get k * filterShape N H y k

/-- 44_vq.md R183, R185 to R187, R189 e: VQSEARCH answers the index of a codeword with its classified gain; no codeword has a
strictly lesser distortion, and no earlier codeword has one as small. A distortion that is no number wins if it is the first
one, and never otherwise. No element of the spec's state changes. -/
def Obligations.VqsearchReturnsTheFirstLeastDistortion : Prop :=
  decode (.mw 0x41#8) = .ok .vqsearch ∧ ∀ s : State,
    let pn := trevconv binary32 s.H s.loc.xn
    let cor : Nat → B32 := fun j => sumFrom binary32 0 5 (fun k => b32Mul (pn.get k) (cfg.cbShape j k))
    let e : Nat → B32 := fun j => rd binary32 s.E j
    let exceeds : Nat → Nat → Nat := fun i j => if b32Lt (b32Mul (cbGb cfg i) (e j)) (b32Abs (cor j)) then 1 else 0
    let g : Nat → Nat := fun j => exceeds 0 j + exceeds 1 j + exceeds 2 j + if b32Lt (cor j) b32Zero then 4 else 0
    let d : Nat → B32 := fun j => b32Sub (b32Mul (cbGsq cfg (g j)) (e j)) (b32Mul (cbG2 cfg (g j)) (cor j))
    ∃ bs, bs < 128 ∧ g bs < 8
      ∧ exec .vqsearch s = .next { s with loc := { s.loc with idx := BitVec.ofNat 10 (bs * 8 + g bs) } }
      ∧ (∀ j < 128, b32Lt (d j) (d bs) = false)
      ∧ (∀ j < bs, b32Le (d j) (d bs) = false)
      ∧ (b32IsNumber (d 0) = false → bs = 0) ∧ (b32IsNumber (d 0) = true → b32IsNumber (d bs) = true)

/-- 44_vq.md R188, in exact arithmetic: the gain the classifier picks for a shape is as good as every gain, and the index
VQSEARCH returns is as good as every one of the 1024 pairs. -/
def Obligations.VqsearchIsOptimalOverAllPairs : Prop :=
  ∀ (K : Type) [Field K] [LinearOrder K] [IsStrictOrderedRing K] (lg pw : K → K) (rnd : K → Int) (C : Cfg K)
    (H xn : Vec5 K) (E : List K),
    C.num = exactNum K lg pw rnd →
    0 < C.cbGain 0 → C.cbGain 0 < C.cbGain 1 → C.cbGain 1 < C.cbGain 2 → C.cbGain 2 < C.cbGain 3 →
    (∀ g < 4, C.cbGain (g + 4) = -C.cbGain g) → (∀ j < 128, 0 ≤ rd C.num E j) →
    let idx := (vqsearch C H E xn).toNat
    let cor := correlation C (trevconv C.num H xn)
    ∀ j < 128, ∀ g < 8,
      distortion C (gainIndex C (cor j) (rd C.num E j)) (rd C.num E j) (cor j) ≤ distortion C g (rd C.num E j) (cor j)
      ∧ distortion C (idx % 8) (rd C.num E (idx / 8)) (cor (idx / 8)) ≤ distortion C g (rd C.num E j) (cor j)

/-- 44_vq.md R190: the two gains first, then each sample; no element of the spec's state changes. -/
def Obligations.ExciteScalesTheShape : Prop :=
  decode (.mw 0x42#8) = .ok .excite ∧ ∀ s : State, ∃ et : Vec5 B32,
    exec .excite s = .next { s with loc := { s.loc with et := et } }
      ∧ ∀ k < 5, et.get k = b32Mul (b32Mul s.loc.gain (cfg.cbGain (s.loc.idx.toNat % 8)))
          (cfg.cbShape (s.loc.idx.toNat / 8) k)

/-- An index word run as an instruction is EXCITE of its fields (44_vq.md R190, 30_encoding.md R96). That its gain operand is
the latch PREDGAIN fills is the model's choice (log 13). -/
def Obligations.IndexWordStandsForItsExcitation : Prop :=
  ∀ (s : State) (shape gain : Nat), shape < 128 → gain < 8 →
    ∃ et : Vec5 B32,
      exec (.index shape gain) s
        = .next { s with loc := { s.loc with idx := BitVec.ofNat 10 (shape * 8 + gain), et := et } }
      ∧ ∀ k < 5, et.get k = b32Mul (b32Mul s.loc.gain (cfg.cbGain gain)) (cfg.cbShape shape k)

/-! ## Postfilter and interface conversions -/

/-- 46_postfilter.md R231, R232: POSTFILT is PF.step on exactly its arguments and writes PF_STATE alone; that it runs so in an
encoder and with PF_EN = 0 too, where no command invokes it (R230), is the model's choice (log 12). R234 to R238: its four
stages, what the rules leave open being the fields of `Config.pfOpen` (log 8); the order of the operations, and that the new
period's tap has to dominate that of the held period, are the model's choice (log 21). R239: on a residual of known period the period extracted is within four samples of it, whatever the previous
period; where the period tracked is not, the extractor answers the known one (log 22). `x` is the residual by age, `d` the
decimated one. -/
def Obligations.PostfiltWritesItsOwnStateOnly : Prop :=
  decode (.mw 0x60#8) = .ok .postfilt
  ∧ (∀ (x : Nat → B32) (p previous : Nat), 20 ≤ p → p ≤ 140 → (∀ n, b32Eq (x n) (x (n + p)) = true) →
      (∀ q, 1 ≤ q → q < p → ∃ n, b32Eq (x n) (x (n + q)) = false) →
      extractPitch binary32 Config.pfOpen x previous ≤ p + 4 ∧ p ≤ extractPitch binary32 Config.pfOpen x previous + 4)
  ∧ ∀ s : State,
    let st := s.PF_STATE
    let sq := s.loc.sq
    let r := cfg.pfStep st sq s.QSYN s.QEXC s.VX s.PF_A10 s.PF_K1
    let P := Config.pfOpen
    let input : PfInput B32 := { sq := sq, qsyn := s.QSYN, qexc := s.QEXC, vx := s.VX, a10 := s.PF_A10, k1 := s.PF_K1 }
    let x : Nat → B32 := P.residual st input
    let d : Nat → B32 := fun j => P.prefilter x (4 * j)
    let value : (Nat → B32) → Nat → Nat → Nat → B32 := fun y start w lag =>
      P.normalise (sumFrom binary32 start w (fun n => b32Mul (y n) (y (n + lag))))
        (sumFrom binary32 start w (fun n => b32Mul (y n) (y n)))
        (sumFrom binary32 start w (fun n => b32Mul (y (n + lag)) (y (n + lag))))
    let coarse := value d P.coarseStart P.coarseWindow
    let fine := value x P.fineStart P.fineWindow
    let level : Vec5 B32 → B32 := fun v =>
      sumFrom binary32 0 5 (fun k => if P.byEnergy then b32Mul (v.get k) (v.get k) else b32Abs (v.get k))
    exec .postfilt s = .next { s with PF_STATE := r.1, loc := { s.loc with out := r.2 } }
      ∧ 20 ≤ r.1.period ∧ r.1.period ≤ 140 ∧ r.1.history = P.history st input
      ∧ r.1.period = extractPitch binary32 P x st.period
      ∧ (∃ c new held : Nat,
          5 ≤ c ∧ c ≤ 35 ∧ (∀ l, 5 ≤ l → l ≤ 35 → b32Lt (coarse c) (coarse l) = false)
          ∧ new ≤ 4 * c + P.refineRange ∧ 4 * c ≤ new + P.refineRange
          ∧ (∀ q, 20 ≤ q → q ≤ 140 → q ≤ 4 * c + P.refineRange → 4 * c ≤ q + P.refineRange → b32Lt (fine new) (fine q) = false)
          ∧ held ≤ max 20 (min 140 st.period) + P.holdRange ∧ max 20 (min 140 st.period) ≤ held + P.holdRange
          ∧ (∀ q, 20 ≤ q → q ≤ 140 → q ≤ max 20 (min 140 st.period) + P.holdRange →
              max 20 (min 140 st.period) ≤ q + P.holdRange → b32Lt (fine held) (fine q) = false)
          ∧ (let tracked := if P.jump st.period new && !P.dominates (P.normalizedTap x new) (P.normalizedTap x held)
                then held else new
             r.1.period = tracked
              ∨ (¬ (tracked ≤ r.1.period + 4 ∧ r.1.period ≤ tracked + 4)
                ∧ ∀ n < max 140 P.periodicSpan, b32Eq (x n) (x (n + r.1.period)) = true)))
      ∧ (st.z.length = 10 → st.p.length = 10 → ∃ u y f g : Vec5 B32,
          let tap := P.combTap x r.1.period
          let target := if b32Eq (level f) b32Zero then P.zeroGain (level sq) else b32Div (level sq) (level f)
          (∀ k < 5, u.get k
            = b32Mul (P.combScale tap) (b32Add ((P.combInput sq x).get k) (b32Mul tap (x (4 - k + r.1.period)))))
          ∧ (∀ k < 5, y.get k = b32Sub
              (b32Add (u.get k) (sumFrom binary32 1 10 (fun i =>
                b32Mul (b32Mul (rd binary32 s.PF_A10 i) (geometric binary32 P.zeroFactor i))
                  (rd binary32 ((u.toList.take k).reverse ++ st.z) (i - 1)))))
              (sumFrom binary32 1 10 (fun i =>
                b32Mul (b32Mul (rd binary32 s.PF_A10 i) (geometric binary32 P.poleFactor i))
                  (rd binary32 ((y.toList.take k).reverse ++ st.p) (i - 1)))))
          ∧ (∀ k < 5, f.get k = b32Add (y.get k)
              (b32Mul (b32Mul P.tiltFactor s.PF_K1) (if k = 0 then rd binary32 st.p 0 else y.get (k - 1))))
          ∧ (∀ k < 5, g.get k = b32Add (b32Mul P.smoothing (if k = 0 then st.gain else g.get (k - 1)))
              (b32Mul (b32Sub (b32OfInt 1) P.smoothing) target))
          ∧ (∀ k < 5, r.2.get k = b32Mul (g.get k) (f.get k))
          ∧ r.1.z = u.toList.reverse ++ st.z.take 5 ∧ r.1.p = y.toList.reverse ++ st.p.take 5 ∧ r.1.gain = g.v4)

/-- 45_controller.md R222: PCM_IN is exact: the sample times 0.125, that is `p · 2^146` units of 2^-149. -/
def Obligations.PcmInScalesExactly : Prop :=
  decode (.mw 0x70#8) = .ok .pcmIn ∧ ∀ s : State, ∃ x : B32,
    exec .pcmIn s = .next { s with loc := { s.loc with x := x } }
      ∧ b32IsFinite x = true ∧ b32Key x = s.loc.p.toInt * 2 ^ 146

/-- 45_controller.md R223: the quotient `x / 0.125` rounded to the nearest integer, ties to even, then saturated to sixteen
bits. A quotient that is no finite number has no stated integer (log 3): whatever it is, it is saturated. -/
def Obligations.PcmOutRoundsAndSaturates : Prop :=
  decode (.mw 0x71#8) = .ok .pcmOut ∧ ∀ s : State, ∃ p : HalfWord,
    exec .pcmOut s = .next { s with loc := { s.loc with p := p } }
      ∧ (let q := b32Div s.loc.x (b32OfRatio 1 8)
         ∃ n : Int, p.toInt = (if n < -32768 then -32768 else if 32767 < n then 32767 else n)
          ∧ (b32IsFinite q = true → 2 * |b32Key q - n * 2 ^ 149| ≤ 2 ^ 149
            ∧ (2 * |b32Key q - n * 2 ^ 149| = 2 ^ 149 → n % 2 = 0)))

/-- 45_controller.md R222, R223: PCM_OUT undoes PCM_IN for every 16-bit sample, whatever stands in the sample's latch between
the two. -/
def Obligations.PcmOutUndoesPcmIn : Prop :=
  ∀ (s : State) (q : HalfWord), ∃ t u : State,
    exec .pcmIn s = .next t ∧ exec .pcmOut (t.setLoc { t.loc with p := q }) = .next u ∧ u.loc.p = s.loc.p

/-! ## Invariants -/

/-- The invariant holds at power-on. -/
def Obligations.PowerOnMeetsTheInvariant : Prop := State.reset.Inv

/-- 10_state.md R33, R59, 43_filters.md R167 b, 46_postfilter.md R235: every step, of a command or of a single micro-operation,
keeps the arrays' lengths, the leading ones of the coefficient sets, the clamp of the synthesis memory and the range of the
pitch period. No step leaves a word on the bench: what runs from the ports is command words alone (30_encoding.md R88,
60_exceptions.md R266). -/
def Obligations.EveryStepKeepsTheInvariant : Prop :=
  ∀ s t : State, s.Inv → step s = .next t → t.Inv ∧ t.bench = none

/-- 41_adapters.md R143, 43_filters.md R174: between commands the gain and weighting flags are clear, the synthesis flag is set
only between phases 1 and 3, and H and E match the current coefficients. It holds after every INIT and every command word
keeps it. -/
def Obligations.CommandsKeepFlagsAndCacheSettled : Prop :=
  (∀ mode pf, (sessionStart cfg mode pf).Settled cfg) ∧ State.reset.toCoreState.Settled cfg
    ∧ ∀ (s t : State) (w : HalfWord) (rest : List HalfWord),
        s.toCoreState.Settled cfg → s.bench = none → s.CMD = w :: rest → step s = .next t → t.toCoreState.Settled cfg

/-! ## Encoder and decoder -/

/-- 41_adapters.md R149: an encoder and a decoder that are in step, the one given a vector and the other the two bytes the
first then emits, are in step after it. -/
def Obligations.EncoderAndDecoderStayInStep : Prop :=
  ∀ (e d : State) (sv : Vec5 B32) (rest : List B32) (more : List Byte),
    e.CTRL = .running → e.MODE = .enc → d.CTRL = .running → d.MODE = .dec →
    InStep e.toCoreState d.toCoreState → e.DIN_SMP = sv.toList ++ rest →
    ∃ (e' d' : State) (b0 b1 : Byte),
      exec .encVec e = .next e' ∧ e'.DOUT_IDX = e.DOUT_IDX ++ [b0, b1]
      ∧ exec .decVec { d with DIN_IDX := b0 :: b1 :: more } = .next d'
      ∧ InStep e'.toCoreState d'.toCoreState
      ∧ d'.CTRL = .running ∧ d'.MODE = .dec ∧ d'.DIN_IDX = more

/-- 41_adapters.md R149, over whole streams, any NUM and any configuration, the postfilter on or off. -/
def Obligations.WholeStreamsRoundTrip : Prop :=
  ∀ (α : Type) (C : Cfg α) (svs : List (Vec5 α)) (pf : Bool),
    let enc := encodeAll C svs (sessionStart C .enc false)
    let dec := decodeAll C enc.2 (sessionStart C .dec pf)
    enc.2.length = svs.length ∧ dec.2.length = svs.length ∧ InStep enc.1 dec.1

/-- 46_postfilter.md R233: the postfilter feeds nothing back. -/
def Obligations.PostfilterFeedsNothingBack : Prop :=
  ∀ (α : Type) (C : Cfg α) (c d : CoreState α) (idx : BitVec 10), c.MODE = .dec → SameButPostfilter c d →
    SameButPostfilter (decodeVector C idx c).core (decodeVector C idx d).core
      ∧ (decodeVector C idx c).et = (decodeVector C idx d).et ∧ (decodeVector C idx c).sq = (decodeVector C idx d).sq

/-- 45_controller.md R215: with the postfilter off a decoder's output, and all its later outputs, depend on nothing outside
the listed elements. -/
def Obligations.DecoderOutputDependsOnItsViewOnly : Prop :=
  ∀ (α : Type) (C : Cfg α) (c d : CoreState α) (idxs : List (BitVec 10)),
    c.PF_EN = false → d.PF_EN = false → SameDecoderView c d →
    (decodeAll C idxs c).2 = (decodeAll C idxs d).2
      ∧ SameDecoderView (decodeAll C idxs c).1 (decodeAll C idxs d).1

/-- 41_adapters.md R148, in exact arithmetic: whatever the input, the synthesis coefficients are the initial ones through the
first fourteen vectors of a session. -/
def Obligations.SynthesisSetStaysInitialForFourteenVectors : Prop :=
  ∀ (K : Type) [Field K] [LinearOrder K] [IsStrictOrderedRing K] (lg pw : K → K) (rnd : K → Int) (C : Cfg K)
    (svs : List (Vec5 K)) (idxs : List (BitVec 10)) (pf : Bool),
    C.num = exactNum K lg pw rnd → C.phaseInit = .p1 → svs.length ≤ 14 → idxs.length ≤ 14 →
    (encodeAll C svs (sessionStart C .enc false)).1.A_CUR = C.aInit
      ∧ (decodeAll C idxs (sessionStart C .dec pf)).1.A_CUR = C.aInit
end

