-- ==== Sys2Proof/Laws/Arith.lean ====
section
/-! SUPPORT. What the notation of Machine/Arith.lean does: reads, tables, sums, shift registers, vectors. -/

namespace Sys2Proof.Machine

variable {α : Type}

@[simp] theorem tabulate_length (n : Nat) (f : Nat → α) : (tabulate n f).length = n := by simp [tabulate]

theorem rd_tabulate (N : NumOps α) (n : Nat) (f : Nat → α) {i : Nat} (h : i < n) : rd N (tabulate n f) i = f i := by
  simp [rd, tabulate, h]

theorem rd_of_length_le (N : NumOps α) (l : List α) {i : Nat} (h : l.length ≤ i) : rd N l i = N.zero := by
  simp [rd, h]

theorem rd_of_lt (N : NumOps α) (l : List α) {i : Nat} (h : i < l.length) : rd N l i = l[i] := by
  simp [rd, h]

@[simp] theorem rd_cons_zero (N : NumOps α) (x : α) (l : List α) : rd N (x :: l) 0 = x := rfl

@[simp] theorem rd_cons_succ (N : NumOps α) (x : α) (l : List α) (i : Nat) : rd N (x :: l) (i + 1) = rd N l i := rfl

@[simp] theorem rd_replicate_zero (N : NumOps α) (n i : Nat) : rd N (List.replicate n N.zero) i = N.zero := by
  by_cases h : i < n
  · simp [rd, h]
  · exact rd_of_length_le N _ (by simp; omega)

theorem rd_set (N : NumOps α) (l : List α) (j : Nat) (x : α) (i : Nat) :
    rd N (l.set j x) i = if i = j ∧ j < l.length then x else rd N l i := by
  by_cases hij : i = j
  · subst hij
    by_cases hl : i < l.length <;> simp [rd, hl]
  · have h' : j ≠ i := fun h => hij h.symm
    simp [rd, hij, h']

@[simp] theorem sumFrom_zero (N : NumOps α) (lo : Nat) (t : Nat → α) : sumFrom N lo 0 t = N.zero := rfl

theorem sumFrom_succ (N : NumOps α) (lo cnt : Nat) (t : Nat → α) :
    sumFrom N lo (cnt + 1) t = N.add (sumFrom N lo cnt t) (t (lo + cnt)) := by
  simp [sumFrom, List.range'_1_concat]

theorem sumFrom_congr (N : NumOps α) {lo cnt : Nat} {t u : Nat → α} (h : ∀ i, lo ≤ i → i < lo + cnt → t i = u i) :
    sumFrom N lo cnt t = sumFrom N lo cnt u := by
  induction cnt with
  | zero => rfl
  | succ n ih =>
    rw [sumFrom_succ, sumFrom_succ, ih fun i h1 h2 => h i h1 (by omega), h (lo + n) (by omega) (by omega)]

@[simp] theorem push_length (m : List α) (v : α) : (push m v).length = m.length := by simp [push]

theorem push_cons (m : List α) (v x : α) : push (x :: m) v = v :: (x :: m).take m.length := rfl

@[simp] theorem toList_length (v : Vec5 α) : v.toList.length = 5 := rfl

theorem get_ofFn (f : Nat → α) {k : Nat} (h : k < 5) : (Vec5.ofFn f).get k = f k := by
  match k, h with
  | 0, _ => rfl
  | 1, _ => rfl
  | 2, _ => rfl
  | 3, _ => rfl
  | 4, _ => rfl

theorem ofFn_get (v : Vec5 α) : Vec5.ofFn v.get = v := rfl

theorem get_zip5 {β γ : Type} (f : α → β → γ) (x : Vec5 α) (y : Vec5 β) (k : Nat) :
    (zip5 f x y).get k = f (x.get k) (y.get k) := by
  unfold zip5 Vec5.get
  split <;> rfl

theorem get_map5 {β : Type} (f : α → β) (x : Vec5 α) (k : Nat) : (map5 f x).get k = f (x.get k) := by
  unfold map5 Vec5.get
  split <;> rfl

theorem clamp_cases (N : NumOps α) (x lo hi : α) :
    (N.lt x lo = true ∧ clamp N x lo hi = lo)
      ∨ (N.lt x lo = false ∧ N.lt hi x = true ∧ clamp N x lo hi = hi)
      ∨ (N.lt x lo = false ∧ N.lt hi x = false ∧ clamp N x lo hi = x) := by
  unfold clamp
  cases N.lt x lo <;> cases N.lt hi x <;> simp

theorem sat16_bounds (n : Int) : -32768 ≤ sat16 n ∧ sat16 n ≤ 32767 := by
  unfold sat16
  split
  · omega
  · split <;> omega

theorem sat16_of_bounds {n : Int} (h : -32768 ≤ n) (h' : n ≤ 32767) : sat16 n = n := by
  unfold sat16
  rw [if_neg (by omega), if_neg (by omega)]

theorem packIndex_toNat {shape gain : Nat} (h : shape < 128) (h' : gain < 8) :
    (packIndex shape gain).toNat = shape * 8 + gain := by
  have hs : shape % 2 ^ 7 = shape := Nat.mod_eq_of_lt h
  have hg : gain % 2 ^ 3 = gain := Nat.mod_eq_of_lt h'
  rw [packIndex, BitVec.toNat_append, BitVec.toNat_ofNat, BitVec.toNat_ofNat, hs, hg,
    ← Nat.shiftLeft_add_eq_or_of_lt h', Nat.shiftLeft_eq]

theorem idxShape_packIndex {shape gain : Nat} (h : shape < 128) (h' : gain < 8) :
    idxShape (packIndex shape gain) = shape := by
  rw [idxShape, BitVec.extractLsb'_toNat, packIndex_toNat h h', Nat.shiftRight_eq_div_pow]
  omega

theorem idxGain_packIndex {shape gain : Nat} (h : shape < 128) (h' : gain < 8) :
    idxGain (packIndex shape gain) = gain := by
  rw [idxGain, BitVec.extractLsb'_toNat, packIndex_toNat h h', Nat.shiftRight_zero]
  omega

end Sys2Proof.Machine
end

