-- ==== Sys2Proof/Laws/Lpc.lean ====
section
/-! SUPPORT. What the linear prediction core can answer: the parts of HWIN's result, and each way a Levinson-Durbin step
ends. -/

namespace Sys2Proof.Machine

variable {α : Type}

@[simp] theorem hwin_R_length (N : NumOps α) (M L K : Nat) (SB new : List α) (WN : Nat → α) (REXP : List α) (d w : α) :
    (hwin N M L K SB new WN REXP d w).R.length = M + 1 := tabulate_length _ _

@[simp] theorem hwin_SB_length (N : NumOps α) (M L K : Nat) (SB new : List α) (WN : Nat → α) (REXP : List α) (d w : α) :
    (hwin N M L K SB new WN REXP d w).SB.length = M + L + K := tabulate_length _ _

@[simp] theorem hwin_REXP_length (N : NumOps α) (M L K : Nat) (SB new : List α) (WN : Nat → α) (REXP : List α)
    (d w : α) : (hwin N M L K SB new WN REXP d w).REXP.length = M + 1 := tabulate_length _ _

theorem hwin_SB (N : NumOps α) (M L K : Nat) (SB new : List α) (WN : Nat → α) (REXP : List α) (d w : α) {n : Nat}
    (h : n < M + L + K) : rd N (hwin N M L K SB new WN REXP d w).SB n
      = if n < M + L + K - L then rd N SB (n + L) else rd N new (n - (M + L + K - L)) := rd_tabulate N _ _ h

/-- The windowed history of step 2. -/
theorem hwin_windowed (N : NumOps α) (sb : List α) (WN : Nat → α) (n3 : Nat) {n : Nat} (h : n < n3) :
    rd N (tabulate n3 (fun n => N.mul (rd N sb n) (WN n))) n = N.mul (rd N sb n) (WN n) := rd_tabulate N _ _ h

@[simp] theorem bwexp_length (N : NumOps α) (a : List α) (dv : Nat → α) (M : Nat) : (bwexp N a dv M).length = M + 1 :=
  tabulate_length _ _

theorem rd_bwexp (N : NumOps α) (a : List α) (dv : Nat → α) {M i : Nat} (h : i ≤ M) :
    rd N (bwexp N a dv M) i = N.mul (rd N a i) (dv i) := rd_tabulate N _ _ (by omega)

@[simp] theorem levUpdate_length (N : NumOps α) (a : List α) (rc : α) (m : Nat) :
    (levUpdate N a rc m).length = m + 1 := tabulate_length _ _

theorem levUpdate_zero (N : NumOps α) (a : List α) (rc : α) (m : Nat) : rd N (levUpdate N a rc m) 0 = rd N a 0 := by
  rw [levUpdate, rd_tabulate N _ _ (by omega), if_pos rfl]

theorem levUpdate_last (N : NumOps α) (a : List α) (rc : α) {m : Nat} (h : 1 ≤ m) : rd N (levUpdate N a rc m) m = rc := by
  rw [levUpdate, rd_tabulate N _ _ (by omega), if_neg (by omega), if_pos rfl]

theorem levUpdate_inner (N : NumOps α) (a : List α) (rc : α) {m k : Nat} (h : 1 ≤ k) (h' : k < m) :
    rd N (levUpdate N a rc m) k = N.add (rd N a k) (N.mul rc (rd N a (m - k))) := by
  rw [levUpdate, rd_tabulate N _ _ (by omega), if_neg (by omega), if_neg (by omega)]

/-- Everything a successful start says. -/
theorem levStart_some {N : NumOps α} {R : List α} {M : Nat} {st : LevState α} (h : levStart N R M = some st) :
    let rc := N.neg (N.div (rd N R 1) (rd N R 0))
    N.eq (rd N R M) N.zero = false ∧ N.le (rd N R 0) N.zero = false
      ∧ N.le (N.add (rd N R 0) (N.mul (rd N R 1) rc)) N.zero = false
      ∧ st = { a := [N.one, rc], alpha := N.add (rd N R 0) (N.mul (rd N R 1) rc), k1 := rc, a10 := [] } := by
  unfold levStart at h
  split at h
  · cases h
  · split at h
    · cases h
    · simp only at h
      split at h
      · cases h
      · simp_all

/-- Everything a successful step of order `m` says. -/
theorem levStep_some {N : NumOps α} {R : List α} {st st' : LevState α} {m : Nat} (h : levStep N R st m = some st') :
    let s := levSum N R st.a m
    let rc := N.neg (N.div s st.alpha)
    N.le (N.add st.alpha (N.mul rc s)) N.zero = false
      ∧ st' = { a := levUpdate N st.a rc m, alpha := N.add st.alpha (N.mul rc s), k1 := st.k1
                a10 := if m = 10 then levUpdate N st.a rc m else st.a10 } := by
  unfold levStep at h
  simp only at h
  split at h
  · cases h
  · simp_all

/-- The whole recursion fails with its start and otherwise folds its steps. -/
theorem levRun_cases (N : NumOps α) (R : List α) (M : Nat) :
    (levStart N R M = none ∧ levRun N R M = none)
      ∨ ∃ st, levStart N R M = some st ∧ levRun N R M = (List.range' 2 (M - 1)).foldlM (levStep N R) st := by
  unfold levRun
  cases h : levStart N R M with
  | none => exact .inl ⟨rfl, rfl⟩
  | some st => exact .inr ⟨st, rfl, rfl⟩

theorem levdurSyn_eq_some {N : NumOps α} {R : List α} {r : LevSyn α} (h : levdurSyn N R = some r) :
    levdur N R 50 = some r.a := by
  unfold levdurSyn at h
  unfold levdur
  cases hr : levRun N R 50 with
  | none => simp [hr] at h
  | some st => simp only [hr, Option.map_some, Option.some.injEq] at h ⊢; subst h; rfl

theorem levdurSyn_eq_none {N : NumOps α} {R : List α} : levdurSyn N R = none ↔ levdur N R 50 = none := by
  unfold levdurSyn levdur
  cases levRun N R 50 <;> simp

end Sys2Proof.Machine
end

