-- ==== Sys2Proof/Laws/State.lean ====
section
/-! SUPPORT. What each update of the state leaves in each field: one lemma per field per update, so that no proof unfolds
a record update. -/

namespace Sys2Proof.Machine

variable {α : Type}

/-! ## setCore and setLoc -/

@[simp] theorem setCore_toCoreState (s : State) (c : CoreState B32) : (s.setCore c).toCoreState = c := rfl
@[simp] theorem setCore_CMD (s : State) (c : CoreState B32) : (s.setCore c).CMD = s.CMD := rfl
@[simp] theorem setCore_DIN_SMP (s : State) (c : CoreState B32) : (s.setCore c).DIN_SMP = s.DIN_SMP := rfl
@[simp] theorem setCore_DIN_IDX (s : State) (c : CoreState B32) : (s.setCore c).DIN_IDX = s.DIN_IDX := rfl
@[simp] theorem setCore_DOUT_IDX (s : State) (c : CoreState B32) : (s.setCore c).DOUT_IDX = s.DOUT_IDX := rfl
@[simp] theorem setCore_DOUT_SMP (s : State) (c : CoreState B32) : (s.setCore c).DOUT_SMP = s.DOUT_SMP := rfl
@[simp] theorem setCore_loc (s : State) (c : CoreState B32) : (s.setCore c).loc = s.loc := rfl
@[simp] theorem setCore_bench (s : State) (c : CoreState B32) : (s.setCore c).bench = s.bench := rfl

@[simp] theorem setLoc_toCoreState (s : State) (l : Locals) : (s.setLoc l).toCoreState = s.toCoreState := rfl
@[simp] theorem setLoc_CMD (s : State) (l : Locals) : (s.setLoc l).CMD = s.CMD := rfl
@[simp] theorem setLoc_DIN_SMP (s : State) (l : Locals) : (s.setLoc l).DIN_SMP = s.DIN_SMP := rfl
@[simp] theorem setLoc_DIN_IDX (s : State) (l : Locals) : (s.setLoc l).DIN_IDX = s.DIN_IDX := rfl
@[simp] theorem setLoc_DOUT_IDX (s : State) (l : Locals) : (s.setLoc l).DOUT_IDX = s.DOUT_IDX := rfl
@[simp] theorem setLoc_DOUT_SMP (s : State) (l : Locals) : (s.setLoc l).DOUT_SMP = s.DOUT_SMP := rfl
@[simp] theorem setLoc_loc (s : State) (l : Locals) : (s.setLoc l).loc = l := rfl
@[simp] theorem setLoc_bench (s : State) (l : Locals) : (s.setLoc l).bench = s.bench := rfl

/-! ## Ends of a session, refusals, the end of a vector step -/

@[simp] theorem raiseFatal_CTRL (code : ErrCode) (s : CoreState α) : (raiseFatal code s).CTRL = .finished := rfl
@[simp] theorem raiseFatal_MODE (code : ErrCode) (s : CoreState α) : (raiseFatal code s).MODE = s.MODE := rfl
@[simp] theorem raiseFatal_PF_EN (code : ErrCode) (s : CoreState α) : (raiseFatal code s).PF_EN = s.PF_EN := rfl
@[simp] theorem raiseFatal_PHASE (code : ErrCode) (s : CoreState α) : (raiseFatal code s).PHASE = s.PHASE := rfl
@[simp] theorem raiseFatal_VX (code : ErrCode) (s : CoreState α) : (raiseFatal code s).VX = s.VX := rfl
@[simp] theorem raiseFatal_ERR (code : ErrCode) (s : CoreState α) : (raiseFatal code s).ERR = code := rfl
@[simp] theorem raiseFatal_A_RDY (code : ErrCode) (s : CoreState α) : (raiseFatal code s).A_RDY = s.A_RDY := rfl
@[simp] theorem raiseFatal_W_RDY (code : ErrCode) (s : CoreState α) : (raiseFatal code s).W_RDY = s.W_RDY := rfl
@[simp] theorem raiseFatal_GP_RDY (code : ErrCode) (s : CoreState α) : (raiseFatal code s).GP_RDY = s.GP_RDY := rfl
@[simp] theorem raiseFatal_A_CUR (code : ErrCode) (s : CoreState α) : (raiseFatal code s).A_CUR = s.A_CUR := rfl
@[simp] theorem raiseFatal_A_PEND (code : ErrCode) (s : CoreState α) : (raiseFatal code s).A_PEND = s.A_PEND := rfl
@[simp] theorem raiseFatal_WZ_CUR (code : ErrCode) (s : CoreState α) : (raiseFatal code s).WZ_CUR = s.WZ_CUR := rfl
@[simp] theorem raiseFatal_WP_CUR (code : ErrCode) (s : CoreState α) : (raiseFatal code s).WP_CUR = s.WP_CUR := rfl
@[simp] theorem raiseFatal_WZ_PEND (code : ErrCode) (s : CoreState α) : (raiseFatal code s).WZ_PEND = s.WZ_PEND := rfl
@[simp] theorem raiseFatal_WP_PEND (code : ErrCode) (s : CoreState α) : (raiseFatal code s).WP_PEND = s.WP_PEND := rfl
@[simp] theorem raiseFatal_GP_CUR (code : ErrCode) (s : CoreState α) : (raiseFatal code s).GP_CUR = s.GP_CUR := rfl
@[simp] theorem raiseFatal_GP_PEND (code : ErrCode) (s : CoreState α) : (raiseFatal code s).GP_PEND = s.GP_PEND := rfl
@[simp] theorem raiseFatal_H (code : ErrCode) (s : CoreState α) : (raiseFatal code s).H = s.H := rfl
@[simp] theorem raiseFatal_E (code : ErrCode) (s : CoreState α) : (raiseFatal code s).E = s.E := rfl
@[simp] theorem raiseFatal_GSTATE (code : ErrCode) (s : CoreState α) : (raiseFatal code s).GSTATE = s.GSTATE := rfl
@[simp] theorem raiseFatal_SYN_MEM (code : ErrCode) (s : CoreState α) : (raiseFatal code s).SYN_MEM = s.SYN_MEM := rfl
@[simp] theorem raiseFatal_WF_ZMEM (code : ErrCode) (s : CoreState α) : (raiseFatal code s).WF_ZMEM = s.WF_ZMEM := rfl
@[simp] theorem raiseFatal_WF_PMEM (code : ErrCode) (s : CoreState α) : (raiseFatal code s).WF_PMEM = s.WF_PMEM := rfl
@[simp] theorem raiseFatal_PWF_ZMEM (code : ErrCode) (s : CoreState α) : (raiseFatal code s).PWF_ZMEM = s.PWF_ZMEM := rfl
@[simp] theorem raiseFatal_PWF_PMEM (code : ErrCode) (s : CoreState α) : (raiseFatal code s).PWF_PMEM = s.PWF_PMEM := rfl
@[simp] theorem raiseFatal_PF_A10 (code : ErrCode) (s : CoreState α) : (raiseFatal code s).PF_A10 = s.PF_A10 := rfl
@[simp] theorem raiseFatal_PF_K1 (code : ErrCode) (s : CoreState α) : (raiseFatal code s).PF_K1 = s.PF_K1 := rfl
@[simp] theorem raiseFatal_PF_STATE (code : ErrCode) (s : CoreState α) : (raiseFatal code s).PF_STATE = s.PF_STATE := rfl
@[simp] theorem raiseFatal_QIN (code : ErrCode) (s : CoreState α) : (raiseFatal code s).QIN = s.QIN := rfl
@[simp] theorem raiseFatal_QEXC (code : ErrCode) (s : CoreState α) : (raiseFatal code s).QEXC = s.QEXC := rfl
@[simp] theorem raiseFatal_QSYN (code : ErrCode) (s : CoreState α) : (raiseFatal code s).QSYN = s.QSYN := rfl
@[simp] theorem raiseFatal_QLG (code : ErrCode) (s : CoreState α) : (raiseFatal code s).QLG = s.QLG := rfl
@[simp] theorem raiseFatal_SB_SYN (code : ErrCode) (s : CoreState α) : (raiseFatal code s).SB_SYN = s.SB_SYN := rfl
@[simp] theorem raiseFatal_SB_W (code : ErrCode) (s : CoreState α) : (raiseFatal code s).SB_W = s.SB_W := rfl
@[simp] theorem raiseFatal_SB_G (code : ErrCode) (s : CoreState α) : (raiseFatal code s).SB_G = s.SB_G := rfl
@[simp] theorem raiseFatal_REXP_SYN (code : ErrCode) (s : CoreState α) : (raiseFatal code s).REXP_SYN = s.REXP_SYN := rfl
@[simp] theorem raiseFatal_REXP_W (code : ErrCode) (s : CoreState α) : (raiseFatal code s).REXP_W = s.REXP_W := rfl
@[simp] theorem raiseFatal_REXP_G (code : ErrCode) (s : CoreState α) : (raiseFatal code s).REXP_G = s.REXP_G := rfl

@[simp] theorem refuseCommand_CTRL (code : ErrCode) (s : CoreState α) : (refuseCommand code s).CTRL = s.CTRL := rfl
@[simp] theorem refuseCommand_MODE (code : ErrCode) (s : CoreState α) : (refuseCommand code s).MODE = s.MODE := rfl
@[simp] theorem refuseCommand_PF_EN (code : ErrCode) (s : CoreState α) : (refuseCommand code s).PF_EN = s.PF_EN := rfl
@[simp] theorem refuseCommand_PHASE (code : ErrCode) (s : CoreState α) : (refuseCommand code s).PHASE = s.PHASE := rfl
@[simp] theorem refuseCommand_VX (code : ErrCode) (s : CoreState α) : (refuseCommand code s).VX = s.VX := rfl
@[simp] theorem refuseCommand_ERR (code : ErrCode) (s : CoreState α) : (refuseCommand code s).ERR = code := rfl
@[simp] theorem refuseCommand_A_RDY (code : ErrCode) (s : CoreState α) : (refuseCommand code s).A_RDY = s.A_RDY := rfl
@[simp] theorem refuseCommand_W_RDY (code : ErrCode) (s : CoreState α) : (refuseCommand code s).W_RDY = s.W_RDY := rfl
@[simp] theorem refuseCommand_GP_RDY (code : ErrCode) (s : CoreState α) : (refuseCommand code s).GP_RDY = s.GP_RDY := rfl
@[simp] theorem refuseCommand_A_CUR (code : ErrCode) (s : CoreState α) : (refuseCommand code s).A_CUR = s.A_CUR := rfl
@[simp] theorem refuseCommand_A_PEND (code : ErrCode) (s : CoreState α) : (refuseCommand code s).A_PEND = s.A_PEND := rfl
@[simp] theorem refuseCommand_WZ_CUR (code : ErrCode) (s : CoreState α) : (refuseCommand code s).WZ_CUR = s.WZ_CUR := rfl
@[simp] theorem refuseCommand_WP_CUR (code : ErrCode) (s : CoreState α) : (refuseCommand code s).WP_CUR = s.WP_CUR := rfl
@[simp] theorem refuseCommand_WZ_PEND (code : ErrCode) (s : CoreState α) : (refuseCommand code s).WZ_PEND = s.WZ_PEND := rfl
@[simp] theorem refuseCommand_WP_PEND (code : ErrCode) (s : CoreState α) : (refuseCommand code s).WP_PEND = s.WP_PEND := rfl
@[simp] theorem refuseCommand_GP_CUR (code : ErrCode) (s : CoreState α) : (refuseCommand code s).GP_CUR = s.GP_CUR := rfl
@[simp] theorem refuseCommand_GP_PEND (code : ErrCode) (s : CoreState α) : (refuseCommand code s).GP_PEND = s.GP_PEND := rfl
@[simp] theorem refuseCommand_H (code : ErrCode) (s : CoreState α) : (refuseCommand code s).H = s.H := rfl
@[simp] theorem refuseCommand_E (code : ErrCode) (s : CoreState α) : (refuseCommand code s).E = s.E := rfl
@[simp] theorem refuseCommand_GSTATE (code : ErrCode) (s : CoreState α) : (refuseCommand code s).GSTATE = s.GSTATE := rfl
@[simp] theorem refuseCommand_SYN_MEM (code : ErrCode) (s : CoreState α) : (refuseCommand code s).SYN_MEM = s.SYN_MEM := rfl
@[simp] theorem refuseCommand_WF_ZMEM (code : ErrCode) (s : CoreState α) : (refuseCommand code s).WF_ZMEM = s.WF_ZMEM := rfl
@[simp] theorem refuseCommand_WF_PMEM (code : ErrCode) (s : CoreState α) : (refuseCommand code s).WF_PMEM = s.WF_PMEM := rfl
@[simp] theorem refuseCommand_PWF_ZMEM (code : ErrCode) (s : CoreState α) : (refuseCommand code s).PWF_ZMEM = s.PWF_ZMEM := rfl
@[simp] theorem refuseCommand_PWF_PMEM (code : ErrCode) (s : CoreState α) : (refuseCommand code s).PWF_PMEM = s.PWF_PMEM := rfl
@[simp] theorem refuseCommand_PF_A10 (code : ErrCode) (s : CoreState α) : (refuseCommand code s).PF_A10 = s.PF_A10 := rfl
@[simp] theorem refuseCommand_PF_K1 (code : ErrCode) (s : CoreState α) : (refuseCommand code s).PF_K1 = s.PF_K1 := rfl
@[simp] theorem refuseCommand_PF_STATE (code : ErrCode) (s : CoreState α) : (refuseCommand code s).PF_STATE = s.PF_STATE := rfl
@[simp] theorem refuseCommand_QIN (code : ErrCode) (s : CoreState α) : (refuseCommand code s).QIN = s.QIN := rfl
@[simp] theorem refuseCommand_QEXC (code : ErrCode) (s : CoreState α) : (refuseCommand code s).QEXC = s.QEXC := rfl
@[simp] theorem refuseCommand_QSYN (code : ErrCode) (s : CoreState α) : (refuseCommand code s).QSYN = s.QSYN := rfl
@[simp] theorem refuseCommand_QLG (code : ErrCode) (s : CoreState α) : (refuseCommand code s).QLG = s.QLG := rfl
@[simp] theorem refuseCommand_SB_SYN (code : ErrCode) (s : CoreState α) : (refuseCommand code s).SB_SYN = s.SB_SYN := rfl
@[simp] theorem refuseCommand_SB_W (code : ErrCode) (s : CoreState α) : (refuseCommand code s).SB_W = s.SB_W := rfl
@[simp] theorem refuseCommand_SB_G (code : ErrCode) (s : CoreState α) : (refuseCommand code s).SB_G = s.SB_G := rfl
@[simp] theorem refuseCommand_REXP_SYN (code : ErrCode) (s : CoreState α) : (refuseCommand code s).REXP_SYN = s.REXP_SYN := rfl
@[simp] theorem refuseCommand_REXP_W (code : ErrCode) (s : CoreState α) : (refuseCommand code s).REXP_W = s.REXP_W := rfl
@[simp] theorem refuseCommand_REXP_G (code : ErrCode) (s : CoreState α) : (refuseCommand code s).REXP_G = s.REXP_G := rfl

@[simp] theorem stepEnd_CTRL (s : CoreState α) : (stepEnd s).CTRL = s.CTRL := rfl
@[simp] theorem stepEnd_MODE (s : CoreState α) : (stepEnd s).MODE = s.MODE := rfl
@[simp] theorem stepEnd_PF_EN (s : CoreState α) : (stepEnd s).PF_EN = s.PF_EN := rfl
@[simp] theorem stepEnd_PHASE (s : CoreState α) : (stepEnd s).PHASE = nextPhase s.PHASE := rfl
@[simp] theorem stepEnd_VX (s : CoreState α) : (stepEnd s).VX = nextSlot s.VX := rfl
@[simp] theorem stepEnd_ERR (s : CoreState α) : (stepEnd s).ERR = s.ERR := rfl
@[simp] theorem stepEnd_A_RDY (s : CoreState α) : (stepEnd s).A_RDY = s.A_RDY := rfl
@[simp] theorem stepEnd_W_RDY (s : CoreState α) : (stepEnd s).W_RDY = s.W_RDY := rfl
@[simp] theorem stepEnd_GP_RDY (s : CoreState α) : (stepEnd s).GP_RDY = s.GP_RDY := rfl
@[simp] theorem stepEnd_A_CUR (s : CoreState α) : (stepEnd s).A_CUR = s.A_CUR := rfl
@[simp] theorem stepEnd_A_PEND (s : CoreState α) : (stepEnd s).A_PEND = s.A_PEND := rfl
@[simp] theorem stepEnd_WZ_CUR (s : CoreState α) : (stepEnd s).WZ_CUR = s.WZ_CUR := rfl
@[simp] theorem stepEnd_WP_CUR (s : CoreState α) : (stepEnd s).WP_CUR = s.WP_CUR := rfl
@[simp] theorem stepEnd_WZ_PEND (s : CoreState α) : (stepEnd s).WZ_PEND = s.WZ_PEND := rfl
@[simp] theorem stepEnd_WP_PEND (s : CoreState α) : (stepEnd s).WP_PEND = s.WP_PEND := rfl
@[simp] theorem stepEnd_GP_CUR (s : CoreState α) : (stepEnd s).GP_CUR = s.GP_CUR := rfl
@[simp] theorem stepEnd_GP_PEND (s : CoreState α) : (stepEnd s).GP_PEND = s.GP_PEND := rfl
@[simp] theorem stepEnd_H (s : CoreState α) : (stepEnd s).H = s.H := rfl
@[simp] theorem stepEnd_E (s : CoreState α) : (stepEnd s).E = s.E := rfl
@[simp] theorem stepEnd_GSTATE (s : CoreState α) : (stepEnd s).GSTATE = s.GSTATE := rfl
@[simp] theorem stepEnd_SYN_MEM (s : CoreState α) : (stepEnd s).SYN_MEM = s.SYN_MEM := rfl
@[simp] theorem stepEnd_WF_ZMEM (s : CoreState α) : (stepEnd s).WF_ZMEM = s.WF_ZMEM := rfl
@[simp] theorem stepEnd_WF_PMEM (s : CoreState α) : (stepEnd s).WF_PMEM = s.WF_PMEM := rfl
@[simp] theorem stepEnd_PWF_ZMEM (s : CoreState α) : (stepEnd s).PWF_ZMEM = s.PWF_ZMEM := rfl
@[simp] theorem stepEnd_PWF_PMEM (s : CoreState α) : (stepEnd s).PWF_PMEM = s.PWF_PMEM := rfl
@[simp] theorem stepEnd_PF_A10 (s : CoreState α) : (stepEnd s).PF_A10 = s.PF_A10 := rfl
@[simp] theorem stepEnd_PF_K1 (s : CoreState α) : (stepEnd s).PF_K1 = s.PF_K1 := rfl
@[simp] theorem stepEnd_PF_STATE (s : CoreState α) : (stepEnd s).PF_STATE = s.PF_STATE := rfl
@[simp] theorem stepEnd_QIN (s : CoreState α) : (stepEnd s).QIN = s.QIN := rfl
@[simp] theorem stepEnd_QEXC (s : CoreState α) : (stepEnd s).QEXC = s.QEXC := rfl
@[simp] theorem stepEnd_QSYN (s : CoreState α) : (stepEnd s).QSYN = s.QSYN := rfl
@[simp] theorem stepEnd_QLG (s : CoreState α) : (stepEnd s).QLG = s.QLG := rfl
@[simp] theorem stepEnd_SB_SYN (s : CoreState α) : (stepEnd s).SB_SYN = s.SB_SYN := rfl
@[simp] theorem stepEnd_SB_W (s : CoreState α) : (stepEnd s).SB_W = s.SB_W := rfl
@[simp] theorem stepEnd_SB_G (s : CoreState α) : (stepEnd s).SB_G = s.SB_G := rfl
@[simp] theorem stepEnd_REXP_SYN (s : CoreState α) : (stepEnd s).REXP_SYN = s.REXP_SYN := rfl
@[simp] theorem stepEnd_REXP_W (s : CoreState α) : (stepEnd s).REXP_W = s.REXP_W := rfl
@[simp] theorem stepEnd_REXP_G (s : CoreState α) : (stepEnd s).REXP_G = s.REXP_G := rfl

/-! ## The start of a session -/

@[simp] theorem sessionStart_CTRL (C : Cfg α) (mode : Mode) (pf : Bool) :
    (sessionStart C mode pf).CTRL = .running := rfl
@[simp] theorem sessionStart_MODE (C : Cfg α) (mode : Mode) (pf : Bool) :
    (sessionStart C mode pf).MODE = mode := rfl
@[simp] theorem sessionStart_PF_EN (C : Cfg α) (mode : Mode) (pf : Bool) :
    (sessionStart C mode pf).PF_EN = pf := rfl
@[simp] theorem sessionStart_PHASE (C : Cfg α) (mode : Mode) (pf : Bool) :
    (sessionStart C mode pf).PHASE = C.phaseInit := rfl
@[simp] theorem sessionStart_VX (C : Cfg α) (mode : Mode) (pf : Bool) :
    (sessionStart C mode pf).VX = 0 := rfl
@[simp] theorem sessionStart_ERR (C : Cfg α) (mode : Mode) (pf : Bool) :
    (sessionStart C mode pf).ERR = .none := rfl
@[simp] theorem sessionStart_A_RDY (C : Cfg α) (mode : Mode) (pf : Bool) :
    (sessionStart C mode pf).A_RDY = false := rfl
@[simp] theorem sessionStart_W_RDY (C : Cfg α) (mode : Mode) (pf : Bool) :
    (sessionStart C mode pf).W_RDY = false := rfl
@[simp] theorem sessionStart_GP_RDY (C : Cfg α) (mode : Mode) (pf : Bool) :
    (sessionStart C mode pf).GP_RDY = false := rfl
@[simp] theorem sessionStart_A_CUR (C : Cfg α) (mode : Mode) (pf : Bool) :
    (sessionStart C mode pf).A_CUR = C.aInit := rfl
@[simp] theorem sessionStart_A_PEND (C : Cfg α) (mode : Mode) (pf : Bool) :
    (sessionStart C mode pf).A_PEND = C.aInit := rfl
@[simp] theorem sessionStart_WZ_CUR (C : Cfg α) (mode : Mode) (pf : Bool) :
    (sessionStart C mode pf).WZ_CUR = C.wzInit := rfl
@[simp] theorem sessionStart_WP_CUR (C : Cfg α) (mode : Mode) (pf : Bool) :
    (sessionStart C mode pf).WP_CUR = C.wpInit := rfl
@[simp] theorem sessionStart_WZ_PEND (C : Cfg α) (mode : Mode) (pf : Bool) :
    (sessionStart C mode pf).WZ_PEND = C.wzInit := rfl
@[simp] theorem sessionStart_WP_PEND (C : Cfg α) (mode : Mode) (pf : Bool) :
    (sessionStart C mode pf).WP_PEND = C.wpInit := rfl
@[simp] theorem sessionStart_GP_CUR (C : Cfg α) (mode : Mode) (pf : Bool) :
    (sessionStart C mode pf).GP_CUR = C.gpInit := rfl
@[simp] theorem sessionStart_GP_PEND (C : Cfg α) (mode : Mode) (pf : Bool) :
    (sessionStart C mode pf).GP_PEND = C.gpInit := rfl
@[simp] theorem sessionStart_H (C : Cfg α) (mode : Mode) (pf : Bool) :
    (sessionStart C mode pf).H = (coreReset C).H := rfl
@[simp] theorem sessionStart_E (C : Cfg α) (mode : Mode) (pf : Bool) :
    (sessionStart C mode pf).E = (coreReset C).E := rfl
@[simp] theorem sessionStart_GSTATE (C : Cfg α) (mode : Mode) (pf : Bool) :
    (sessionStart C mode pf).GSTATE = (coreReset C).GSTATE := rfl
@[simp] theorem sessionStart_SYN_MEM (C : Cfg α) (mode : Mode) (pf : Bool) :
    (sessionStart C mode pf).SYN_MEM = (coreReset C).SYN_MEM := rfl
@[simp] theorem sessionStart_WF_ZMEM (C : Cfg α) (mode : Mode) (pf : Bool) :
    (sessionStart C mode pf).WF_ZMEM = (coreReset C).WF_ZMEM := rfl
@[simp] theorem sessionStart_WF_PMEM (C : Cfg α) (mode : Mode) (pf : Bool) :
    (sessionStart C mode pf).WF_PMEM = (coreReset C).WF_PMEM := rfl
@[simp] theorem sessionStart_PWF_ZMEM (C : Cfg α) (mode : Mode) (pf : Bool) :
    (sessionStart C mode pf).PWF_ZMEM = (coreReset C).PWF_ZMEM := rfl
@[simp] theorem sessionStart_PWF_PMEM (C : Cfg α) (mode : Mode) (pf : Bool) :
    (sessionStart C mode pf).PWF_PMEM = (coreReset C).PWF_PMEM := rfl
@[simp] theorem sessionStart_PF_A10 (C : Cfg α) (mode : Mode) (pf : Bool) :
    (sessionStart C mode pf).PF_A10 = (coreReset C).PF_A10 := rfl
@[simp] theorem sessionStart_PF_K1 (C : Cfg α) (mode : Mode) (pf : Bool) :
    (sessionStart C mode pf).PF_K1 = (coreReset C).PF_K1 := rfl
@[simp] theorem sessionStart_PF_STATE (C : Cfg α) (mode : Mode) (pf : Bool) :
    (sessionStart C mode pf).PF_STATE = C.pfInit := rfl
@[simp] theorem sessionStart_QIN (C : Cfg α) (mode : Mode) (pf : Bool) :
    (sessionStart C mode pf).QIN = (coreReset C).QIN := rfl
@[simp] theorem sessionStart_QEXC (C : Cfg α) (mode : Mode) (pf : Bool) :
    (sessionStart C mode pf).QEXC = (coreReset C).QEXC := rfl
@[simp] theorem sessionStart_QSYN (C : Cfg α) (mode : Mode) (pf : Bool) :
    (sessionStart C mode pf).QSYN = (coreReset C).QSYN := rfl
@[simp] theorem sessionStart_QLG (C : Cfg α) (mode : Mode) (pf : Bool) :
    (sessionStart C mode pf).QLG = (coreReset C).QLG := rfl
@[simp] theorem sessionStart_SB_SYN (C : Cfg α) (mode : Mode) (pf : Bool) :
    (sessionStart C mode pf).SB_SYN = (coreReset C).SB_SYN := rfl
@[simp] theorem sessionStart_SB_W (C : Cfg α) (mode : Mode) (pf : Bool) :
    (sessionStart C mode pf).SB_W = (coreReset C).SB_W := rfl
@[simp] theorem sessionStart_SB_G (C : Cfg α) (mode : Mode) (pf : Bool) :
    (sessionStart C mode pf).SB_G = (coreReset C).SB_G := rfl
@[simp] theorem sessionStart_REXP_SYN (C : Cfg α) (mode : Mode) (pf : Bool) :
    (sessionStart C mode pf).REXP_SYN = (coreReset C).REXP_SYN := rfl
@[simp] theorem sessionStart_REXP_W (C : Cfg α) (mode : Mode) (pf : Bool) :
    (sessionStart C mode pf).REXP_W = (coreReset C).REXP_W := rfl
@[simp] theorem sessionStart_REXP_G (C : Cfg α) (mode : Mode) (pf : Bool) :
    (sessionStart C mode pf).REXP_G = (coreReset C).REXP_G := rfl

/-! ## Pending sets, commits and caches -/

@[simp] theorem setPendingSyn_CTRL (a : List α) (s : CoreState α) : (setPendingSyn s a).CTRL = s.CTRL := rfl
@[simp] theorem setPendingSyn_MODE (a : List α) (s : CoreState α) : (setPendingSyn s a).MODE = s.MODE := rfl
@[simp] theorem setPendingSyn_PF_EN (a : List α) (s : CoreState α) : (setPendingSyn s a).PF_EN = s.PF_EN := rfl
@[simp] theorem setPendingSyn_PHASE (a : List α) (s : CoreState α) : (setPendingSyn s a).PHASE = s.PHASE := rfl
@[simp] theorem setPendingSyn_VX (a : List α) (s : CoreState α) : (setPendingSyn s a).VX = s.VX := rfl
@[simp] theorem setPendingSyn_ERR (a : List α) (s : CoreState α) : (setPendingSyn s a).ERR = s.ERR := rfl
@[simp] theorem setPendingSyn_A_RDY (a : List α) (s : CoreState α) : (setPendingSyn s a).A_RDY = true := rfl
@[simp] theorem setPendingSyn_W_RDY (a : List α) (s : CoreState α) : (setPendingSyn s a).W_RDY = s.W_RDY := rfl
@[simp] theorem setPendingSyn_GP_RDY (a : List α) (s : CoreState α) : (setPendingSyn s a).GP_RDY = s.GP_RDY := rfl
@[simp] theorem setPendingSyn_A_CUR (a : List α) (s : CoreState α) : (setPendingSyn s a).A_CUR = s.A_CUR := rfl
@[simp] theorem setPendingSyn_A_PEND (a : List α) (s : CoreState α) : (setPendingSyn s a).A_PEND = a := rfl
@[simp] theorem setPendingSyn_WZ_CUR (a : List α) (s : CoreState α) : (setPendingSyn s a).WZ_CUR = s.WZ_CUR := rfl
@[simp] theorem setPendingSyn_WP_CUR (a : List α) (s : CoreState α) : (setPendingSyn s a).WP_CUR = s.WP_CUR := rfl
@[simp] theorem setPendingSyn_WZ_PEND (a : List α) (s : CoreState α) : (setPendingSyn s a).WZ_PEND = s.WZ_PEND := rfl
@[simp] theorem setPendingSyn_WP_PEND (a : List α) (s : CoreState α) : (setPendingSyn s a).WP_PEND = s.WP_PEND := rfl
@[simp] theorem setPendingSyn_GP_CUR (a : List α) (s : CoreState α) : (setPendingSyn s a).GP_CUR = s.GP_CUR := rfl
@[simp] theorem setPendingSyn_GP_PEND (a : List α) (s : CoreState α) : (setPendingSyn s a).GP_PEND = s.GP_PEND := rfl
@[simp] theorem setPendingSyn_H (a : List α) (s : CoreState α) : (setPendingSyn s a).H = s.H := rfl
@[simp] theorem setPendingSyn_E (a : List α) (s : CoreState α) : (setPendingSyn s a).E = s.E := rfl
@[simp] theorem setPendingSyn_GSTATE (a : List α) (s : CoreState α) : (setPendingSyn s a).GSTATE = s.GSTATE := rfl
@[simp] theorem setPendingSyn_SYN_MEM (a : List α) (s : CoreState α) : (setPendingSyn s a).SYN_MEM = s.SYN_MEM := rfl
@[simp] theorem setPendingSyn_WF_ZMEM (a : List α) (s : CoreState α) : (setPendingSyn s a).WF_ZMEM = s.WF_ZMEM := rfl
@[simp] theorem setPendingSyn_WF_PMEM (a : List α) (s : CoreState α) : (setPendingSyn s a).WF_PMEM = s.WF_PMEM := rfl
@[simp] theorem setPendingSyn_PWF_ZMEM (a : List α) (s : CoreState α) : (setPendingSyn s a).PWF_ZMEM = s.PWF_ZMEM := rfl
@[simp] theorem setPendingSyn_PWF_PMEM (a : List α) (s : CoreState α) : (setPendingSyn s a).PWF_PMEM = s.PWF_PMEM := rfl
@[simp] theorem setPendingSyn_PF_A10 (a : List α) (s : CoreState α) : (setPendingSyn s a).PF_A10 = s.PF_A10 := rfl
@[simp] theorem setPendingSyn_PF_K1 (a : List α) (s : CoreState α) : (setPendingSyn s a).PF_K1 = s.PF_K1 := rfl
@[simp] theorem setPendingSyn_PF_STATE (a : List α) (s : CoreState α) : (setPendingSyn s a).PF_STATE = s.PF_STATE := rfl
@[simp] theorem setPendingSyn_QIN (a : List α) (s : CoreState α) : (setPendingSyn s a).QIN = s.QIN := rfl
@[simp] theorem setPendingSyn_QEXC (a : List α) (s : CoreState α) : (setPendingSyn s a).QEXC = s.QEXC := rfl
@[simp] theorem setPendingSyn_QSYN (a : List α) (s : CoreState α) : (setPendingSyn s a).QSYN = s.QSYN := rfl
@[simp] theorem setPendingSyn_QLG (a : List α) (s : CoreState α) : (setPendingSyn s a).QLG = s.QLG := rfl
@[simp] theorem setPendingSyn_SB_SYN (a : List α) (s : CoreState α) : (setPendingSyn s a).SB_SYN = s.SB_SYN := rfl
@[simp] theorem setPendingSyn_SB_W (a : List α) (s : CoreState α) : (setPendingSyn s a).SB_W = s.SB_W := rfl
@[simp] theorem setPendingSyn_SB_G (a : List α) (s : CoreState α) : (setPendingSyn s a).SB_G = s.SB_G := rfl
@[simp] theorem setPendingSyn_REXP_SYN (a : List α) (s : CoreState α) : (setPendingSyn s a).REXP_SYN = s.REXP_SYN := rfl
@[simp] theorem setPendingSyn_REXP_W (a : List α) (s : CoreState α) : (setPendingSyn s a).REXP_W = s.REXP_W := rfl
@[simp] theorem setPendingSyn_REXP_G (a : List α) (s : CoreState α) : (setPendingSyn s a).REXP_G = s.REXP_G := rfl

@[simp] theorem setPendingGain_CTRL (a : List α) (s : CoreState α) : (setPendingGain s a).CTRL = s.CTRL := rfl
@[simp] theorem setPendingGain_MODE (a : List α) (s : CoreState α) : (setPendingGain s a).MODE = s.MODE := rfl
@[simp] theorem setPendingGain_PF_EN (a : List α) (s : CoreState α) : (setPendingGain s a).PF_EN = s.PF_EN := rfl
@[simp] theorem setPendingGain_PHASE (a : List α) (s : CoreState α) : (setPendingGain s a).PHASE = s.PHASE := rfl
@[simp] theorem setPendingGain_VX (a : List α) (s : CoreState α) : (setPendingGain s a).VX = s.VX := rfl
@[simp] theorem setPendingGain_ERR (a : List α) (s : CoreState α) : (setPendingGain s a).ERR = s.ERR := rfl
@[simp] theorem setPendingGain_A_RDY (a : List α) (s : CoreState α) : (setPendingGain s a).A_RDY = s.A_RDY := rfl
@[simp] theorem setPendingGain_W_RDY (a : List α) (s : CoreState α) : (setPendingGain s a).W_RDY = s.W_RDY := rfl
@[simp] theorem setPendingGain_GP_RDY (a : List α) (s : CoreState α) : (setPendingGain s a).GP_RDY = true := rfl
@[simp] theorem setPendingGain_A_CUR (a : List α) (s : CoreState α) : (setPendingGain s a).A_CUR = s.A_CUR := rfl
@[simp] theorem setPendingGain_A_PEND (a : List α) (s : CoreState α) : (setPendingGain s a).A_PEND = s.A_PEND := rfl
@[simp] theorem setPendingGain_WZ_CUR (a : List α) (s : CoreState α) : (setPendingGain s a).WZ_CUR = s.WZ_CUR := rfl
@[simp] theorem setPendingGain_WP_CUR (a : List α) (s : CoreState α) : (setPendingGain s a).WP_CUR = s.WP_CUR := rfl
@[simp] theorem setPendingGain_WZ_PEND (a : List α) (s : CoreState α) : (setPendingGain s a).WZ_PEND = s.WZ_PEND := rfl
@[simp] theorem setPendingGain_WP_PEND (a : List α) (s : CoreState α) : (setPendingGain s a).WP_PEND = s.WP_PEND := rfl
@[simp] theorem setPendingGain_GP_CUR (a : List α) (s : CoreState α) : (setPendingGain s a).GP_CUR = s.GP_CUR := rfl
@[simp] theorem setPendingGain_GP_PEND (a : List α) (s : CoreState α) : (setPendingGain s a).GP_PEND = a := rfl
@[simp] theorem setPendingGain_H (a : List α) (s : CoreState α) : (setPendingGain s a).H = s.H := rfl
@[simp] theorem setPendingGain_E (a : List α) (s : CoreState α) : (setPendingGain s a).E = s.E := rfl
@[simp] theorem setPendingGain_GSTATE (a : List α) (s : CoreState α) : (setPendingGain s a).GSTATE = s.GSTATE := rfl
@[simp] theorem setPendingGain_SYN_MEM (a : List α) (s : CoreState α) : (setPendingGain s a).SYN_MEM = s.SYN_MEM := rfl
@[simp] theorem setPendingGain_WF_ZMEM (a : List α) (s : CoreState α) : (setPendingGain s a).WF_ZMEM = s.WF_ZMEM := rfl
@[simp] theorem setPendingGain_WF_PMEM (a : List α) (s : CoreState α) : (setPendingGain s a).WF_PMEM = s.WF_PMEM := rfl
@[simp] theorem setPendingGain_PWF_ZMEM (a : List α) (s : CoreState α) : (setPendingGain s a).PWF_ZMEM = s.PWF_ZMEM := rfl
@[simp] theorem setPendingGain_PWF_PMEM (a : List α) (s : CoreState α) : (setPendingGain s a).PWF_PMEM = s.PWF_PMEM := rfl
@[simp] theorem setPendingGain_PF_A10 (a : List α) (s : CoreState α) : (setPendingGain s a).PF_A10 = s.PF_A10 := rfl
@[simp] theorem setPendingGain_PF_K1 (a : List α) (s : CoreState α) : (setPendingGain s a).PF_K1 = s.PF_K1 := rfl
@[simp] theorem setPendingGain_PF_STATE (a : List α) (s : CoreState α) : (setPendingGain s a).PF_STATE = s.PF_STATE := rfl
@[simp] theorem setPendingGain_QIN (a : List α) (s : CoreState α) : (setPendingGain s a).QIN = s.QIN := rfl
@[simp] theorem setPendingGain_QEXC (a : List α) (s : CoreState α) : (setPendingGain s a).QEXC = s.QEXC := rfl
@[simp] theorem setPendingGain_QSYN (a : List α) (s : CoreState α) : (setPendingGain s a).QSYN = s.QSYN := rfl
@[simp] theorem setPendingGain_QLG (a : List α) (s : CoreState α) : (setPendingGain s a).QLG = s.QLG := rfl
@[simp] theorem setPendingGain_SB_SYN (a : List α) (s : CoreState α) : (setPendingGain s a).SB_SYN = s.SB_SYN := rfl
@[simp] theorem setPendingGain_SB_W (a : List α) (s : CoreState α) : (setPendingGain s a).SB_W = s.SB_W := rfl
@[simp] theorem setPendingGain_SB_G (a : List α) (s : CoreState α) : (setPendingGain s a).SB_G = s.SB_G := rfl
@[simp] theorem setPendingGain_REXP_SYN (a : List α) (s : CoreState α) : (setPendingGain s a).REXP_SYN = s.REXP_SYN := rfl
@[simp] theorem setPendingGain_REXP_W (a : List α) (s : CoreState α) : (setPendingGain s a).REXP_W = s.REXP_W := rfl
@[simp] theorem setPendingGain_REXP_G (a : List α) (s : CoreState α) : (setPendingGain s a).REXP_G = s.REXP_G := rfl

@[simp] theorem setPendingWgt_CTRL (wz wp : List α) (s : CoreState α) : (setPendingWgt s wz wp).CTRL = s.CTRL := rfl
@[simp] theorem setPendingWgt_MODE (wz wp : List α) (s : CoreState α) : (setPendingWgt s wz wp).MODE = s.MODE := rfl
@[simp] theorem setPendingWgt_PF_EN (wz wp : List α) (s : CoreState α) : (setPendingWgt s wz wp).PF_EN = s.PF_EN := rfl
@[simp] theorem setPendingWgt_PHASE (wz wp : List α) (s : CoreState α) : (setPendingWgt s wz wp).PHASE = s.PHASE := rfl
@[simp] theorem setPendingWgt_VX (wz wp : List α) (s : CoreState α) : (setPendingWgt s wz wp).VX = s.VX := rfl
@[simp] theorem setPendingWgt_ERR (wz wp : List α) (s : CoreState α) : (setPendingWgt s wz wp).ERR = s.ERR := rfl
@[simp] theorem setPendingWgt_A_RDY (wz wp : List α) (s : CoreState α) : (setPendingWgt s wz wp).A_RDY = s.A_RDY := rfl
@[simp] theorem setPendingWgt_W_RDY (wz wp : List α) (s : CoreState α) : (setPendingWgt s wz wp).W_RDY = true := rfl
@[simp] theorem setPendingWgt_GP_RDY (wz wp : List α) (s : CoreState α) : (setPendingWgt s wz wp).GP_RDY = s.GP_RDY := rfl
@[simp] theorem setPendingWgt_A_CUR (wz wp : List α) (s : CoreState α) : (setPendingWgt s wz wp).A_CUR = s.A_CUR := rfl
@[simp] theorem setPendingWgt_A_PEND (wz wp : List α) (s : CoreState α) : (setPendingWgt s wz wp).A_PEND = s.A_PEND := rfl
@[simp] theorem setPendingWgt_WZ_CUR (wz wp : List α) (s : CoreState α) : (setPendingWgt s wz wp).WZ_CUR = s.WZ_CUR := rfl
@[simp] theorem setPendingWgt_WP_CUR (wz wp : List α) (s : CoreState α) : (setPendingWgt s wz wp).WP_CUR = s.WP_CUR := rfl
@[simp] theorem setPendingWgt_WZ_PEND (wz wp : List α) (s : CoreState α) : (setPendingWgt s wz wp).WZ_PEND = wz := rfl
@[simp] theorem setPendingWgt_WP_PEND (wz wp : List α) (s : CoreState α) : (setPendingWgt s wz wp).WP_PEND = wp := rfl
@[simp] theorem setPendingWgt_GP_CUR (wz wp : List α) (s : CoreState α) : (setPendingWgt s wz wp).GP_CUR = s.GP_CUR := rfl
@[simp] theorem setPendingWgt_GP_PEND (wz wp : List α) (s : CoreState α) : (setPendingWgt s wz wp).GP_PEND = s.GP_PEND := rfl
@[simp] theorem setPendingWgt_H (wz wp : List α) (s : CoreState α) : (setPendingWgt s wz wp).H = s.H := rfl
@[simp] theorem setPendingWgt_E (wz wp : List α) (s : CoreState α) : (setPendingWgt s wz wp).E = s.E := rfl
@[simp] theorem setPendingWgt_GSTATE (wz wp : List α) (s : CoreState α) : (setPendingWgt s wz wp).GSTATE = s.GSTATE := rfl
@[simp] theorem setPendingWgt_SYN_MEM (wz wp : List α) (s : CoreState α) : (setPendingWgt s wz wp).SYN_MEM = s.SYN_MEM := rfl
@[simp] theorem setPendingWgt_WF_ZMEM (wz wp : List α) (s : CoreState α) : (setPendingWgt s wz wp).WF_ZMEM = s.WF_ZMEM := rfl
@[simp] theorem setPendingWgt_WF_PMEM (wz wp : List α) (s : CoreState α) : (setPendingWgt s wz wp).WF_PMEM = s.WF_PMEM := rfl
@[simp] theorem setPendingWgt_PWF_ZMEM (wz wp : List α) (s : CoreState α) : (setPendingWgt s wz wp).PWF_ZMEM = s.PWF_ZMEM := rfl
@[simp] theorem setPendingWgt_PWF_PMEM (wz wp : List α) (s : CoreState α) : (setPendingWgt s wz wp).PWF_PMEM = s.PWF_PMEM := rfl
@[simp] theorem setPendingWgt_PF_A10 (wz wp : List α) (s : CoreState α) : (setPendingWgt s wz wp).PF_A10 = s.PF_A10 := rfl
@[simp] theorem setPendingWgt_PF_K1 (wz wp : List α) (s : CoreState α) : (setPendingWgt s wz wp).PF_K1 = s.PF_K1 := rfl
@[simp] theorem setPendingWgt_PF_STATE (wz wp : List α) (s : CoreState α) : (setPendingWgt s wz wp).PF_STATE = s.PF_STATE := rfl
@[simp] theorem setPendingWgt_QIN (wz wp : List α) (s : CoreState α) : (setPendingWgt s wz wp).QIN = s.QIN := rfl
@[simp] theorem setPendingWgt_QEXC (wz wp : List α) (s : CoreState α) : (setPendingWgt s wz wp).QEXC = s.QEXC := rfl
@[simp] theorem setPendingWgt_QSYN (wz wp : List α) (s : CoreState α) : (setPendingWgt s wz wp).QSYN = s.QSYN := rfl
@[simp] theorem setPendingWgt_QLG (wz wp : List α) (s : CoreState α) : (setPendingWgt s wz wp).QLG = s.QLG := rfl
@[simp] theorem setPendingWgt_SB_SYN (wz wp : List α) (s : CoreState α) : (setPendingWgt s wz wp).SB_SYN = s.SB_SYN := rfl
@[simp] theorem setPendingWgt_SB_W (wz wp : List α) (s : CoreState α) : (setPendingWgt s wz wp).SB_W = s.SB_W := rfl
@[simp] theorem setPendingWgt_SB_G (wz wp : List α) (s : CoreState α) : (setPendingWgt s wz wp).SB_G = s.SB_G := rfl
@[simp] theorem setPendingWgt_REXP_SYN (wz wp : List α) (s : CoreState α) : (setPendingWgt s wz wp).REXP_SYN = s.REXP_SYN := rfl
@[simp] theorem setPendingWgt_REXP_W (wz wp : List α) (s : CoreState α) : (setPendingWgt s wz wp).REXP_W = s.REXP_W := rfl
@[simp] theorem setPendingWgt_REXP_G (wz wp : List α) (s : CoreState α) : (setPendingWgt s wz wp).REXP_G = s.REXP_G := rfl

@[simp] theorem commitSyn_CTRL (s : CoreState α) : (commitSyn s).CTRL = s.CTRL := by unfold commitSyn; split <;> rfl
@[simp] theorem commitSyn_MODE (s : CoreState α) : (commitSyn s).MODE = s.MODE := by unfold commitSyn; split <;> rfl
@[simp] theorem commitSyn_PF_EN (s : CoreState α) : (commitSyn s).PF_EN = s.PF_EN := by unfold commitSyn; split <;> rfl
@[simp] theorem commitSyn_PHASE (s : CoreState α) : (commitSyn s).PHASE = s.PHASE := by unfold commitSyn; split <;> rfl
@[simp] theorem commitSyn_VX (s : CoreState α) : (commitSyn s).VX = s.VX := by unfold commitSyn; split <;> rfl
@[simp] theorem commitSyn_ERR (s : CoreState α) : (commitSyn s).ERR = s.ERR := by unfold commitSyn; split <;> rfl
@[simp] theorem commitSyn_W_RDY (s : CoreState α) : (commitSyn s).W_RDY = s.W_RDY := by unfold commitSyn; split <;> rfl
@[simp] theorem commitSyn_GP_RDY (s : CoreState α) : (commitSyn s).GP_RDY = s.GP_RDY := by unfold commitSyn; split <;> rfl
@[simp] theorem commitSyn_A_PEND (s : CoreState α) : (commitSyn s).A_PEND = s.A_PEND := by unfold commitSyn; split <;> rfl
@[simp] theorem commitSyn_WZ_CUR (s : CoreState α) : (commitSyn s).WZ_CUR = s.WZ_CUR := by unfold commitSyn; split <;> rfl
@[simp] theorem commitSyn_WP_CUR (s : CoreState α) : (commitSyn s).WP_CUR = s.WP_CUR := by unfold commitSyn; split <;> rfl
@[simp] theorem commitSyn_WZ_PEND (s : CoreState α) : (commitSyn s).WZ_PEND = s.WZ_PEND := by unfold commitSyn; split <;> rfl
@[simp] theorem commitSyn_WP_PEND (s : CoreState α) : (commitSyn s).WP_PEND = s.WP_PEND := by unfold commitSyn; split <;> rfl
@[simp] theorem commitSyn_GP_CUR (s : CoreState α) : (commitSyn s).GP_CUR = s.GP_CUR := by unfold commitSyn; split <;> rfl
@[simp] theorem commitSyn_GP_PEND (s : CoreState α) : (commitSyn s).GP_PEND = s.GP_PEND := by unfold commitSyn; split <;> rfl
@[simp] theorem commitSyn_H (s : CoreState α) : (commitSyn s).H = s.H := by unfold commitSyn; split <;> rfl
@[simp] theorem commitSyn_E (s : CoreState α) : (commitSyn s).E = s.E := by unfold commitSyn; split <;> rfl
@[simp] theorem commitSyn_GSTATE (s : CoreState α) : (commitSyn s).GSTATE = s.GSTATE := by unfold commitSyn; split <;> rfl
@[simp] theorem commitSyn_SYN_MEM (s : CoreState α) : (commitSyn s).SYN_MEM = s.SYN_MEM := by unfold commitSyn; split <;> rfl
@[simp] theorem commitSyn_WF_ZMEM (s : CoreState α) : (commitSyn s).WF_ZMEM = s.WF_ZMEM := by unfold commitSyn; split <;> rfl
@[simp] theorem commitSyn_WF_PMEM (s : CoreState α) : (commitSyn s).WF_PMEM = s.WF_PMEM := by unfold commitSyn; split <;> rfl
@[simp] theorem commitSyn_PWF_ZMEM (s : CoreState α) : (commitSyn s).PWF_ZMEM = s.PWF_ZMEM := by unfold commitSyn; split <;> rfl
@[simp] theorem commitSyn_PWF_PMEM (s : CoreState α) : (commitSyn s).PWF_PMEM = s.PWF_PMEM := by unfold commitSyn; split <;> rfl
@[simp] theorem commitSyn_PF_A10 (s : CoreState α) : (commitSyn s).PF_A10 = s.PF_A10 := by unfold commitSyn; split <;> rfl
@[simp] theorem commitSyn_PF_K1 (s : CoreState α) : (commitSyn s).PF_K1 = s.PF_K1 := by unfold commitSyn; split <;> rfl
@[simp] theorem commitSyn_PF_STATE (s : CoreState α) : (commitSyn s).PF_STATE = s.PF_STATE := by unfold commitSyn; split <;> rfl
@[simp] theorem commitSyn_QIN (s : CoreState α) : (commitSyn s).QIN = s.QIN := by unfold commitSyn; split <;> rfl
@[simp] theorem commitSyn_QEXC (s : CoreState α) : (commitSyn s).QEXC = s.QEXC := by unfold commitSyn; split <;> rfl
@[simp] theorem commitSyn_QSYN (s : CoreState α) : (commitSyn s).QSYN = s.QSYN := by unfold commitSyn; split <;> rfl
@[simp] theorem commitSyn_QLG (s : CoreState α) : (commitSyn s).QLG = s.QLG := by unfold commitSyn; split <;> rfl
@[simp] theorem commitSyn_SB_SYN (s : CoreState α) : (commitSyn s).SB_SYN = s.SB_SYN := by unfold commitSyn; split <;> rfl
@[simp] theorem commitSyn_SB_W (s : CoreState α) : (commitSyn s).SB_W = s.SB_W := by unfold commitSyn; split <;> rfl
@[simp] theorem commitSyn_SB_G (s : CoreState α) : (commitSyn s).SB_G = s.SB_G := by unfold commitSyn; split <;> rfl
@[simp] theorem commitSyn_REXP_SYN (s : CoreState α) : (commitSyn s).REXP_SYN = s.REXP_SYN := by unfold commitSyn; split <;> rfl
@[simp] theorem commitSyn_REXP_W (s : CoreState α) : (commitSyn s).REXP_W = s.REXP_W := by unfold commitSyn; split <;> rfl
@[simp] theorem commitSyn_REXP_G (s : CoreState α) : (commitSyn s).REXP_G = s.REXP_G := by unfold commitSyn; split <;> rfl
@[simp] theorem commitSyn_A_RDY (s : CoreState α) : (commitSyn s).A_RDY = false := by unfold commitSyn; split <;> simp_all
@[simp] theorem commitSyn_A_CUR (s : CoreState α) : (commitSyn s).A_CUR = if s.A_RDY then s.A_PEND else s.A_CUR := by unfold commitSyn; split <;> simp_all

@[simp] theorem commitGain_CTRL (s : CoreState α) : (commitGain s).CTRL = s.CTRL := by unfold commitGain; split <;> rfl
@[simp] theorem commitGain_MODE (s : CoreState α) : (commitGain s).MODE = s.MODE := by unfold commitGain; split <;> rfl
@[simp] theorem commitGain_PF_EN (s : CoreState α) : (commitGain s).PF_EN = s.PF_EN := by unfold commitGain; split <;> rfl
@[simp] theorem commitGain_PHASE (s : CoreState α) : (commitGain s).PHASE = s.PHASE := by unfold commitGain; split <;> rfl
@[simp] theorem commitGain_VX (s : CoreState α) : (commitGain s).VX = s.VX := by unfold commitGain; split <;> rfl
@[simp] theorem commitGain_ERR (s : CoreState α) : (commitGain s).ERR = s.ERR := by unfold commitGain; split <;> rfl
@[simp] theorem commitGain_A_RDY (s : CoreState α) : (commitGain s).A_RDY = s.A_RDY := by unfold commitGain; split <;> rfl
@[simp] theorem commitGain_W_RDY (s : CoreState α) : (commitGain s).W_RDY = s.W_RDY := by unfold commitGain; split <;> rfl
@[simp] theorem commitGain_A_CUR (s : CoreState α) : (commitGain s).A_CUR = s.A_CUR := by unfold commitGain; split <;> rfl
@[simp] theorem commitGain_A_PEND (s : CoreState α) : (commitGain s).A_PEND = s.A_PEND := by unfold commitGain; split <;> rfl
@[simp] theorem commitGain_WZ_CUR (s : CoreState α) : (commitGain s).WZ_CUR = s.WZ_CUR := by unfold commitGain; split <;> rfl
@[simp] theorem commitGain_WP_CUR (s : CoreState α) : (commitGain s).WP_CUR = s.WP_CUR := by unfold commitGain; split <;> rfl
@[simp] theorem commitGain_WZ_PEND (s : CoreState α) : (commitGain s).WZ_PEND = s.WZ_PEND := by unfold commitGain; split <;> rfl
@[simp] theorem commitGain_WP_PEND (s : CoreState α) : (commitGain s).WP_PEND = s.WP_PEND := by unfold commitGain; split <;> rfl
@[simp] theorem commitGain_GP_PEND (s : CoreState α) : (commitGain s).GP_PEND = s.GP_PEND := by unfold commitGain; split <;> rfl
@[simp] theorem commitGain_H (s : CoreState α) : (commitGain s).H = s.H := by unfold commitGain; split <;> rfl
@[simp] theorem commitGain_E (s : CoreState α) : (commitGain s).E = s.E := by unfold commitGain; split <;> rfl
@[simp] theorem commitGain_GSTATE (s : CoreState α) : (commitGain s).GSTATE = s.GSTATE := by unfold commitGain; split <;> rfl
@[simp] theorem commitGain_SYN_MEM (s : CoreState α) : (commitGain s).SYN_MEM = s.SYN_MEM := by unfold commitGain; split <;> rfl
@[simp] theorem commitGain_WF_ZMEM (s : CoreState α) : (commitGain s).WF_ZMEM = s.WF_ZMEM := by unfold commitGain; split <;> rfl
@[simp] theorem commitGain_WF_PMEM (s : CoreState α) : (commitGain s).WF_PMEM = s.WF_PMEM := by unfold commitGain; split <;> rfl
@[simp] theorem commitGain_PWF_ZMEM (s : CoreState α) : (commitGain s).PWF_ZMEM = s.PWF_ZMEM := by unfold commitGain; split <;> rfl
@[simp] theorem commitGain_PWF_PMEM (s : CoreState α) : (commitGain s).PWF_PMEM = s.PWF_PMEM := by unfold commitGain; split <;> rfl
@[simp] theorem commitGain_PF_A10 (s : CoreState α) : (commitGain s).PF_A10 = s.PF_A10 := by unfold commitGain; split <;> rfl
@[simp] theorem commitGain_PF_K1 (s : CoreState α) : (commitGain s).PF_K1 = s.PF_K1 := by unfold commitGain; split <;> rfl
@[simp] theorem commitGain_PF_STATE (s : CoreState α) : (commitGain s).PF_STATE = s.PF_STATE := by unfold commitGain; split <;> rfl
@[simp] theorem commitGain_QIN (s : CoreState α) : (commitGain s).QIN = s.QIN := by unfold commitGain; split <;> rfl
@[simp] theorem commitGain_QEXC (s : CoreState α) : (commitGain s).QEXC = s.QEXC := by unfold commitGain; split <;> rfl
@[simp] theorem commitGain_QSYN (s : CoreState α) : (commitGain s).QSYN = s.QSYN := by unfold commitGain; split <;> rfl
@[simp] theorem commitGain_QLG (s : CoreState α) : (commitGain s).QLG = s.QLG := by unfold commitGain; split <;> rfl
@[simp] theorem commitGain_SB_SYN (s : CoreState α) : (commitGain s).SB_SYN = s.SB_SYN := by unfold commitGain; split <;> rfl
@[simp] theorem commitGain_SB_W (s : CoreState α) : (commitGain s).SB_W = s.SB_W := by unfold commitGain; split <;> rfl
@[simp] theorem commitGain_SB_G (s : CoreState α) : (commitGain s).SB_G = s.SB_G := by unfold commitGain; split <;> rfl
@[simp] theorem commitGain_REXP_SYN (s : CoreState α) : (commitGain s).REXP_SYN = s.REXP_SYN := by unfold commitGain; split <;> rfl
@[simp] theorem commitGain_REXP_W (s : CoreState α) : (commitGain s).REXP_W = s.REXP_W := by unfold commitGain; split <;> rfl
@[simp] theorem commitGain_REXP_G (s : CoreState α) : (commitGain s).REXP_G = s.REXP_G := by unfold commitGain; split <;> rfl
@[simp] theorem commitGain_GP_RDY (s : CoreState α) : (commitGain s).GP_RDY = false := by unfold commitGain; split <;> simp_all
@[simp] theorem commitGain_GP_CUR (s : CoreState α) : (commitGain s).GP_CUR = if s.GP_RDY then s.GP_PEND else s.GP_CUR := by unfold commitGain; split <;> simp_all

@[simp] theorem commitWgt_CTRL (s : CoreState α) : (commitWgt s).CTRL = s.CTRL := by unfold commitWgt; split <;> rfl
@[simp] theorem commitWgt_MODE (s : CoreState α) : (commitWgt s).MODE = s.MODE := by unfold commitWgt; split <;> rfl
@[simp] theorem commitWgt_PF_EN (s : CoreState α) : (commitWgt s).PF_EN = s.PF_EN := by unfold commitWgt; split <;> rfl
@[simp] theorem commitWgt_PHASE (s : CoreState α) : (commitWgt s).PHASE = s.PHASE := by unfold commitWgt; split <;> rfl
@[simp] theorem commitWgt_VX (s : CoreState α) : (commitWgt s).VX = s.VX := by unfold commitWgt; split <;> rfl
@[simp] theorem commitWgt_ERR (s : CoreState α) : (commitWgt s).ERR = s.ERR := by unfold commitWgt; split <;> rfl
@[simp] theorem commitWgt_A_RDY (s : CoreState α) : (commitWgt s).A_RDY = s.A_RDY := by unfold commitWgt; split <;> rfl
@[simp] theorem commitWgt_GP_RDY (s : CoreState α) : (commitWgt s).GP_RDY = s.GP_RDY := by unfold commitWgt; split <;> rfl
@[simp] theorem commitWgt_A_CUR (s : CoreState α) : (commitWgt s).A_CUR = s.A_CUR := by unfold commitWgt; split <;> rfl
@[simp] theorem commitWgt_A_PEND (s : CoreState α) : (commitWgt s).A_PEND = s.A_PEND := by unfold commitWgt; split <;> rfl
@[simp] theorem commitWgt_WZ_PEND (s : CoreState α) : (commitWgt s).WZ_PEND = s.WZ_PEND := by unfold commitWgt; split <;> rfl
@[simp] theorem commitWgt_WP_PEND (s : CoreState α) : (commitWgt s).WP_PEND = s.WP_PEND := by unfold commitWgt; split <;> rfl
@[simp] theorem commitWgt_GP_CUR (s : CoreState α) : (commitWgt s).GP_CUR = s.GP_CUR := by unfold commitWgt; split <;> rfl
@[simp] theorem commitWgt_GP_PEND (s : CoreState α) : (commitWgt s).GP_PEND = s.GP_PEND := by unfold commitWgt; split <;> rfl
@[simp] theorem commitWgt_H (s : CoreState α) : (commitWgt s).H = s.H := by unfold commitWgt; split <;> rfl
@[simp] theorem commitWgt_E (s : CoreState α) : (commitWgt s).E = s.E := by unfold commitWgt; split <;> rfl
@[simp] theorem commitWgt_GSTATE (s : CoreState α) : (commitWgt s).GSTATE = s.GSTATE := by unfold commitWgt; split <;> rfl
@[simp] theorem commitWgt_SYN_MEM (s : CoreState α) : (commitWgt s).SYN_MEM = s.SYN_MEM := by unfold commitWgt; split <;> rfl
@[simp] theorem commitWgt_WF_ZMEM (s : CoreState α) : (commitWgt s).WF_ZMEM = s.WF_ZMEM := by unfold commitWgt; split <;> rfl
@[simp] theorem commitWgt_WF_PMEM (s : CoreState α) : (commitWgt s).WF_PMEM = s.WF_PMEM := by unfold commitWgt; split <;> rfl
@[simp] theorem commitWgt_PWF_ZMEM (s : CoreState α) : (commitWgt s).PWF_ZMEM = s.PWF_ZMEM := by unfold commitWgt; split <;> rfl
@[simp] theorem commitWgt_PWF_PMEM (s : CoreState α) : (commitWgt s).PWF_PMEM = s.PWF_PMEM := by unfold commitWgt; split <;> rfl
@[simp] theorem commitWgt_PF_A10 (s : CoreState α) : (commitWgt s).PF_A10 = s.PF_A10 := by unfold commitWgt; split <;> rfl
@[simp] theorem commitWgt_PF_K1 (s : CoreState α) : (commitWgt s).PF_K1 = s.PF_K1 := by unfold commitWgt; split <;> rfl
@[simp] theorem commitWgt_PF_STATE (s : CoreState α) : (commitWgt s).PF_STATE = s.PF_STATE := by unfold commitWgt; split <;> rfl
@[simp] theorem commitWgt_QIN (s : CoreState α) : (commitWgt s).QIN = s.QIN := by unfold commitWgt; split <;> rfl
@[simp] theorem commitWgt_QEXC (s : CoreState α) : (commitWgt s).QEXC = s.QEXC := by unfold commitWgt; split <;> rfl
@[simp] theorem commitWgt_QSYN (s : CoreState α) : (commitWgt s).QSYN = s.QSYN := by unfold commitWgt; split <;> rfl
@[simp] theorem commitWgt_QLG (s : CoreState α) : (commitWgt s).QLG = s.QLG := by unfold commitWgt; split <;> rfl
@[simp] theorem commitWgt_SB_SYN (s : CoreState α) : (commitWgt s).SB_SYN = s.SB_SYN := by unfold commitWgt; split <;> rfl
@[simp] theorem commitWgt_SB_W (s : CoreState α) : (commitWgt s).SB_W = s.SB_W := by unfold commitWgt; split <;> rfl
@[simp] theorem commitWgt_SB_G (s : CoreState α) : (commitWgt s).SB_G = s.SB_G := by unfold commitWgt; split <;> rfl
@[simp] theorem commitWgt_REXP_SYN (s : CoreState α) : (commitWgt s).REXP_SYN = s.REXP_SYN := by unfold commitWgt; split <;> rfl
@[simp] theorem commitWgt_REXP_W (s : CoreState α) : (commitWgt s).REXP_W = s.REXP_W := by unfold commitWgt; split <;> rfl
@[simp] theorem commitWgt_REXP_G (s : CoreState α) : (commitWgt s).REXP_G = s.REXP_G := by unfold commitWgt; split <;> rfl
@[simp] theorem commitWgt_W_RDY (s : CoreState α) : (commitWgt s).W_RDY = false := by unfold commitWgt; split <;> simp_all
@[simp] theorem commitWgt_WZ_CUR (s : CoreState α) : (commitWgt s).WZ_CUR = if s.W_RDY then s.WZ_PEND else s.WZ_CUR := by unfold commitWgt; split <;> simp_all
@[simp] theorem commitWgt_WP_CUR (s : CoreState α) : (commitWgt s).WP_CUR = if s.W_RDY then s.WP_PEND else s.WP_CUR := by unfold commitWgt; split <;> simp_all

@[simp] theorem storeLevSyn_CTRL (r : LevSyn α) (s : CoreState α) : (storeLevSyn s r).CTRL = s.CTRL := rfl
@[simp] theorem storeLevSyn_MODE (r : LevSyn α) (s : CoreState α) : (storeLevSyn s r).MODE = s.MODE := rfl
@[simp] theorem storeLevSyn_PF_EN (r : LevSyn α) (s : CoreState α) : (storeLevSyn s r).PF_EN = s.PF_EN := rfl
@[simp] theorem storeLevSyn_PHASE (r : LevSyn α) (s : CoreState α) : (storeLevSyn s r).PHASE = s.PHASE := rfl
@[simp] theorem storeLevSyn_VX (r : LevSyn α) (s : CoreState α) : (storeLevSyn s r).VX = s.VX := rfl
@[simp] theorem storeLevSyn_ERR (r : LevSyn α) (s : CoreState α) : (storeLevSyn s r).ERR = s.ERR := rfl
@[simp] theorem storeLevSyn_A_RDY (r : LevSyn α) (s : CoreState α) : (storeLevSyn s r).A_RDY = s.A_RDY := rfl
@[simp] theorem storeLevSyn_W_RDY (r : LevSyn α) (s : CoreState α) : (storeLevSyn s r).W_RDY = s.W_RDY := rfl
@[simp] theorem storeLevSyn_GP_RDY (r : LevSyn α) (s : CoreState α) : (storeLevSyn s r).GP_RDY = s.GP_RDY := rfl
@[simp] theorem storeLevSyn_A_CUR (r : LevSyn α) (s : CoreState α) : (storeLevSyn s r).A_CUR = s.A_CUR := rfl
@[simp] theorem storeLevSyn_A_PEND (r : LevSyn α) (s : CoreState α) : (storeLevSyn s r).A_PEND = s.A_PEND := rfl
@[simp] theorem storeLevSyn_WZ_CUR (r : LevSyn α) (s : CoreState α) : (storeLevSyn s r).WZ_CUR = s.WZ_CUR := rfl
@[simp] theorem storeLevSyn_WP_CUR (r : LevSyn α) (s : CoreState α) : (storeLevSyn s r).WP_CUR = s.WP_CUR := rfl
@[simp] theorem storeLevSyn_WZ_PEND (r : LevSyn α) (s : CoreState α) : (storeLevSyn s r).WZ_PEND = s.WZ_PEND := rfl
@[simp] theorem storeLevSyn_WP_PEND (r : LevSyn α) (s : CoreState α) : (storeLevSyn s r).WP_PEND = s.WP_PEND := rfl
@[simp] theorem storeLevSyn_GP_CUR (r : LevSyn α) (s : CoreState α) : (storeLevSyn s r).GP_CUR = s.GP_CUR := rfl
@[simp] theorem storeLevSyn_GP_PEND (r : LevSyn α) (s : CoreState α) : (storeLevSyn s r).GP_PEND = s.GP_PEND := rfl
@[simp] theorem storeLevSyn_H (r : LevSyn α) (s : CoreState α) : (storeLevSyn s r).H = s.H := rfl
@[simp] theorem storeLevSyn_E (r : LevSyn α) (s : CoreState α) : (storeLevSyn s r).E = s.E := rfl
@[simp] theorem storeLevSyn_GSTATE (r : LevSyn α) (s : CoreState α) : (storeLevSyn s r).GSTATE = s.GSTATE := rfl
@[simp] theorem storeLevSyn_SYN_MEM (r : LevSyn α) (s : CoreState α) : (storeLevSyn s r).SYN_MEM = s.SYN_MEM := rfl
@[simp] theorem storeLevSyn_WF_ZMEM (r : LevSyn α) (s : CoreState α) : (storeLevSyn s r).WF_ZMEM = s.WF_ZMEM := rfl
@[simp] theorem storeLevSyn_WF_PMEM (r : LevSyn α) (s : CoreState α) : (storeLevSyn s r).WF_PMEM = s.WF_PMEM := rfl
@[simp] theorem storeLevSyn_PWF_ZMEM (r : LevSyn α) (s : CoreState α) : (storeLevSyn s r).PWF_ZMEM = s.PWF_ZMEM := rfl
@[simp] theorem storeLevSyn_PWF_PMEM (r : LevSyn α) (s : CoreState α) : (storeLevSyn s r).PWF_PMEM = s.PWF_PMEM := rfl
@[simp] theorem storeLevSyn_PF_A10 (r : LevSyn α) (s : CoreState α) : (storeLevSyn s r).PF_A10 = r.a10 := rfl
@[simp] theorem storeLevSyn_PF_K1 (r : LevSyn α) (s : CoreState α) : (storeLevSyn s r).PF_K1 = r.k1 := rfl
@[simp] theorem storeLevSyn_PF_STATE (r : LevSyn α) (s : CoreState α) : (storeLevSyn s r).PF_STATE = s.PF_STATE := rfl
@[simp] theorem storeLevSyn_QIN (r : LevSyn α) (s : CoreState α) : (storeLevSyn s r).QIN = s.QIN := rfl
@[simp] theorem storeLevSyn_QEXC (r : LevSyn α) (s : CoreState α) : (storeLevSyn s r).QEXC = s.QEXC := rfl
@[simp] theorem storeLevSyn_QSYN (r : LevSyn α) (s : CoreState α) : (storeLevSyn s r).QSYN = s.QSYN := rfl
@[simp] theorem storeLevSyn_QLG (r : LevSyn α) (s : CoreState α) : (storeLevSyn s r).QLG = s.QLG := rfl
@[simp] theorem storeLevSyn_SB_SYN (r : LevSyn α) (s : CoreState α) : (storeLevSyn s r).SB_SYN = s.SB_SYN := rfl
@[simp] theorem storeLevSyn_SB_W (r : LevSyn α) (s : CoreState α) : (storeLevSyn s r).SB_W = s.SB_W := rfl
@[simp] theorem storeLevSyn_SB_G (r : LevSyn α) (s : CoreState α) : (storeLevSyn s r).SB_G = s.SB_G := rfl
@[simp] theorem storeLevSyn_REXP_SYN (r : LevSyn α) (s : CoreState α) : (storeLevSyn s r).REXP_SYN = s.REXP_SYN := rfl
@[simp] theorem storeLevSyn_REXP_W (r : LevSyn α) (s : CoreState α) : (storeLevSyn s r).REXP_W = s.REXP_W := rfl
@[simp] theorem storeLevSyn_REXP_G (r : LevSyn α) (s : CoreState α) : (storeLevSyn s r).REXP_G = s.REXP_G := rfl

@[simp] theorem coreIresp_CTRL (C : Cfg α) (s : CoreState α) : (coreIresp C s).CTRL = s.CTRL := rfl
@[simp] theorem coreIresp_MODE (C : Cfg α) (s : CoreState α) : (coreIresp C s).MODE = s.MODE := rfl
@[simp] theorem coreIresp_PF_EN (C : Cfg α) (s : CoreState α) : (coreIresp C s).PF_EN = s.PF_EN := rfl
@[simp] theorem coreIresp_PHASE (C : Cfg α) (s : CoreState α) : (coreIresp C s).PHASE = s.PHASE := rfl
@[simp] theorem coreIresp_VX (C : Cfg α) (s : CoreState α) : (coreIresp C s).VX = s.VX := rfl
@[simp] theorem coreIresp_ERR (C : Cfg α) (s : CoreState α) : (coreIresp C s).ERR = s.ERR := rfl
@[simp] theorem coreIresp_A_RDY (C : Cfg α) (s : CoreState α) : (coreIresp C s).A_RDY = s.A_RDY := rfl
@[simp] theorem coreIresp_W_RDY (C : Cfg α) (s : CoreState α) : (coreIresp C s).W_RDY = s.W_RDY := rfl
@[simp] theorem coreIresp_GP_RDY (C : Cfg α) (s : CoreState α) : (coreIresp C s).GP_RDY = s.GP_RDY := rfl
@[simp] theorem coreIresp_A_CUR (C : Cfg α) (s : CoreState α) : (coreIresp C s).A_CUR = s.A_CUR := rfl
@[simp] theorem coreIresp_A_PEND (C : Cfg α) (s : CoreState α) : (coreIresp C s).A_PEND = s.A_PEND := rfl
@[simp] theorem coreIresp_WZ_CUR (C : Cfg α) (s : CoreState α) : (coreIresp C s).WZ_CUR = s.WZ_CUR := rfl
@[simp] theorem coreIresp_WP_CUR (C : Cfg α) (s : CoreState α) : (coreIresp C s).WP_CUR = s.WP_CUR := rfl
@[simp] theorem coreIresp_WZ_PEND (C : Cfg α) (s : CoreState α) : (coreIresp C s).WZ_PEND = s.WZ_PEND := rfl
@[simp] theorem coreIresp_WP_PEND (C : Cfg α) (s : CoreState α) : (coreIresp C s).WP_PEND = s.WP_PEND := rfl
@[simp] theorem coreIresp_GP_CUR (C : Cfg α) (s : CoreState α) : (coreIresp C s).GP_CUR = s.GP_CUR := rfl
@[simp] theorem coreIresp_GP_PEND (C : Cfg α) (s : CoreState α) : (coreIresp C s).GP_PEND = s.GP_PEND := rfl
@[simp] theorem coreIresp_H (C : Cfg α) (s : CoreState α) : (coreIresp C s).H = iresp C.num s.A_CUR s.WZ_CUR s.WP_CUR := rfl
@[simp] theorem coreIresp_E (C : Cfg α) (s : CoreState α) : (coreIresp C s).E = s.E := rfl
@[simp] theorem coreIresp_GSTATE (C : Cfg α) (s : CoreState α) : (coreIresp C s).GSTATE = s.GSTATE := rfl
@[simp] theorem coreIresp_SYN_MEM (C : Cfg α) (s : CoreState α) : (coreIresp C s).SYN_MEM = s.SYN_MEM := rfl
@[simp] theorem coreIresp_WF_ZMEM (C : Cfg α) (s : CoreState α) : (coreIresp C s).WF_ZMEM = s.WF_ZMEM := rfl
@[simp] theorem coreIresp_WF_PMEM (C : Cfg α) (s : CoreState α) : (coreIresp C s).WF_PMEM = s.WF_PMEM := rfl
@[simp] theorem coreIresp_PWF_ZMEM (C : Cfg α) (s : CoreState α) : (coreIresp C s).PWF_ZMEM = s.PWF_ZMEM := rfl
@[simp] theorem coreIresp_PWF_PMEM (C : Cfg α) (s : CoreState α) : (coreIresp C s).PWF_PMEM = s.PWF_PMEM := rfl
@[simp] theorem coreIresp_PF_A10 (C : Cfg α) (s : CoreState α) : (coreIresp C s).PF_A10 = s.PF_A10 := rfl
@[simp] theorem coreIresp_PF_K1 (C : Cfg α) (s : CoreState α) : (coreIresp C s).PF_K1 = s.PF_K1 := rfl
@[simp] theorem coreIresp_PF_STATE (C : Cfg α) (s : CoreState α) : (coreIresp C s).PF_STATE = s.PF_STATE := rfl
@[simp] theorem coreIresp_QIN (C : Cfg α) (s : CoreState α) : (coreIresp C s).QIN = s.QIN := rfl
@[simp] theorem coreIresp_QEXC (C : Cfg α) (s : CoreState α) : (coreIresp C s).QEXC = s.QEXC := rfl
@[simp] theorem coreIresp_QSYN (C : Cfg α) (s : CoreState α) : (coreIresp C s).QSYN = s.QSYN := rfl
@[simp] theorem coreIresp_QLG (C : Cfg α) (s : CoreState α) : (coreIresp C s).QLG = s.QLG := rfl
@[simp] theorem coreIresp_SB_SYN (C : Cfg α) (s : CoreState α) : (coreIresp C s).SB_SYN = s.SB_SYN := rfl
@[simp] theorem coreIresp_SB_W (C : Cfg α) (s : CoreState α) : (coreIresp C s).SB_W = s.SB_W := rfl
@[simp] theorem coreIresp_SB_G (C : Cfg α) (s : CoreState α) : (coreIresp C s).SB_G = s.SB_G := rfl
@[simp] theorem coreIresp_REXP_SYN (C : Cfg α) (s : CoreState α) : (coreIresp C s).REXP_SYN = s.REXP_SYN := rfl
@[simp] theorem coreIresp_REXP_W (C : Cfg α) (s : CoreState α) : (coreIresp C s).REXP_W = s.REXP_W := rfl
@[simp] theorem coreIresp_REXP_G (C : Cfg α) (s : CoreState α) : (coreIresp C s).REXP_G = s.REXP_G := rfl

@[simp] theorem coreShapen_CTRL (C : Cfg α) (s : CoreState α) : (coreShapen C s).CTRL = s.CTRL := rfl
@[simp] theorem coreShapen_MODE (C : Cfg α) (s : CoreState α) : (coreShapen C s).MODE = s.MODE := rfl
@[simp] theorem coreShapen_PF_EN (C : Cfg α) (s : CoreState α) : (coreShapen C s).PF_EN = s.PF_EN := rfl
@[simp] theorem coreShapen_PHASE (C : Cfg α) (s : CoreState α) : (coreShapen C s).PHASE = s.PHASE := rfl
@[simp] theorem coreShapen_VX (C : Cfg α) (s : CoreState α) : (coreShapen C s).VX = s.VX := rfl
@[simp] theorem coreShapen_ERR (C : Cfg α) (s : CoreState α) : (coreShapen C s).ERR = s.ERR := rfl
@[simp] theorem coreShapen_A_RDY (C : Cfg α) (s : CoreState α) : (coreShapen C s).A_RDY = s.A_RDY := rfl
@[simp] theorem coreShapen_W_RDY (C : Cfg α) (s : CoreState α) : (coreShapen C s).W_RDY = s.W_RDY := rfl
@[simp] theorem coreShapen_GP_RDY (C : Cfg α) (s : CoreState α) : (coreShapen C s).GP_RDY = s.GP_RDY := rfl
@[simp] theorem coreShapen_A_CUR (C : Cfg α) (s : CoreState α) : (coreShapen C s).A_CUR = s.A_CUR := rfl
@[simp] theorem coreShapen_A_PEND (C : Cfg α) (s : CoreState α) : (coreShapen C s).A_PEND = s.A_PEND := rfl
@[simp] theorem coreShapen_WZ_CUR (C : Cfg α) (s : CoreState α) : (coreShapen C s).WZ_CUR = s.WZ_CUR := rfl
@[simp] theorem coreShapen_WP_CUR (C : Cfg α) (s : CoreState α) : (coreShapen C s).WP_CUR = s.WP_CUR := rfl
@[simp] theorem coreShapen_WZ_PEND (C : Cfg α) (s : CoreState α) : (coreShapen C s).WZ_PEND = s.WZ_PEND := rfl
@[simp] theorem coreShapen_WP_PEND (C : Cfg α) (s : CoreState α) : (coreShapen C s).WP_PEND = s.WP_PEND := rfl
@[simp] theorem coreShapen_GP_CUR (C : Cfg α) (s : CoreState α) : (coreShapen C s).GP_CUR = s.GP_CUR := rfl
@[simp] theorem coreShapen_GP_PEND (C : Cfg α) (s : CoreState α) : (coreShapen C s).GP_PEND = s.GP_PEND := rfl
@[simp] theorem coreShapen_H (C : Cfg α) (s : CoreState α) : (coreShapen C s).H = s.H := rfl
@[simp] theorem coreShapen_E (C : Cfg α) (s : CoreState α) : (coreShapen C s).E = shapen C.num s.H C.cbShape := rfl
@[simp] theorem coreShapen_GSTATE (C : Cfg α) (s : CoreState α) : (coreShapen C s).GSTATE = s.GSTATE := rfl
@[simp] theorem coreShapen_SYN_MEM (C : Cfg α) (s : CoreState α) : (coreShapen C s).SYN_MEM = s.SYN_MEM := rfl
@[simp] theorem coreShapen_WF_ZMEM (C : Cfg α) (s : CoreState α) : (coreShapen C s).WF_ZMEM = s.WF_ZMEM := rfl
@[simp] theorem coreShapen_WF_PMEM (C : Cfg α) (s : CoreState α) : (coreShapen C s).WF_PMEM = s.WF_PMEM := rfl
@[simp] theorem coreShapen_PWF_ZMEM (C : Cfg α) (s : CoreState α) : (coreShapen C s).PWF_ZMEM = s.PWF_ZMEM := rfl
@[simp] theorem coreShapen_PWF_PMEM (C : Cfg α) (s : CoreState α) : (coreShapen C s).PWF_PMEM = s.PWF_PMEM := rfl
@[simp] theorem coreShapen_PF_A10 (C : Cfg α) (s : CoreState α) : (coreShapen C s).PF_A10 = s.PF_A10 := rfl
@[simp] theorem coreShapen_PF_K1 (C : Cfg α) (s : CoreState α) : (coreShapen C s).PF_K1 = s.PF_K1 := rfl
@[simp] theorem coreShapen_PF_STATE (C : Cfg α) (s : CoreState α) : (coreShapen C s).PF_STATE = s.PF_STATE := rfl
@[simp] theorem coreShapen_QIN (C : Cfg α) (s : CoreState α) : (coreShapen C s).QIN = s.QIN := rfl
@[simp] theorem coreShapen_QEXC (C : Cfg α) (s : CoreState α) : (coreShapen C s).QEXC = s.QEXC := rfl
@[simp] theorem coreShapen_QSYN (C : Cfg α) (s : CoreState α) : (coreShapen C s).QSYN = s.QSYN := rfl
@[simp] theorem coreShapen_QLG (C : Cfg α) (s : CoreState α) : (coreShapen C s).QLG = s.QLG := rfl
@[simp] theorem coreShapen_SB_SYN (C : Cfg α) (s : CoreState α) : (coreShapen C s).SB_SYN = s.SB_SYN := rfl
@[simp] theorem coreShapen_SB_W (C : Cfg α) (s : CoreState α) : (coreShapen C s).SB_W = s.SB_W := rfl
@[simp] theorem coreShapen_SB_G (C : Cfg α) (s : CoreState α) : (coreShapen C s).SB_G = s.SB_G := rfl
@[simp] theorem coreShapen_REXP_SYN (C : Cfg α) (s : CoreState α) : (coreShapen C s).REXP_SYN = s.REXP_SYN := rfl
@[simp] theorem coreShapen_REXP_W (C : Cfg α) (s : CoreState α) : (coreShapen C s).REXP_W = s.REXP_W := rfl
@[simp] theorem coreShapen_REXP_G (C : Cfg α) (s : CoreState α) : (coreShapen C s).REXP_G = s.REXP_G := rfl

/-! ## Histories, rings and filter memories -/

@[simp] theorem storeHwin_CTRL (ad : Adapter) (h : HwinResult α) (s : CoreState α) : (storeHwin ad s h).CTRL = s.CTRL := by cases ad <;> rfl
@[simp] theorem storeHwin_MODE (ad : Adapter) (h : HwinResult α) (s : CoreState α) : (storeHwin ad s h).MODE = s.MODE := by cases ad <;> rfl
@[simp] theorem storeHwin_PF_EN (ad : Adapter) (h : HwinResult α) (s : CoreState α) : (storeHwin ad s h).PF_EN = s.PF_EN := by cases ad <;> rfl
@[simp] theorem storeHwin_PHASE (ad : Adapter) (h : HwinResult α) (s : CoreState α) : (storeHwin ad s h).PHASE = s.PHASE := by cases ad <;> rfl
@[simp] theorem storeHwin_VX (ad : Adapter) (h : HwinResult α) (s : CoreState α) : (storeHwin ad s h).VX = s.VX := by cases ad <;> rfl
@[simp] theorem storeHwin_ERR (ad : Adapter) (h : HwinResult α) (s : CoreState α) : (storeHwin ad s h).ERR = s.ERR := by cases ad <;> rfl
@[simp] theorem storeHwin_A_RDY (ad : Adapter) (h : HwinResult α) (s : CoreState α) : (storeHwin ad s h).A_RDY = s.A_RDY := by cases ad <;> rfl
@[simp] theorem storeHwin_W_RDY (ad : Adapter) (h : HwinResult α) (s : CoreState α) : (storeHwin ad s h).W_RDY = s.W_RDY := by cases ad <;> rfl
@[simp] theorem storeHwin_GP_RDY (ad : Adapter) (h : HwinResult α) (s : CoreState α) : (storeHwin ad s h).GP_RDY = s.GP_RDY := by cases ad <;> rfl
@[simp] theorem storeHwin_A_CUR (ad : Adapter) (h : HwinResult α) (s : CoreState α) : (storeHwin ad s h).A_CUR = s.A_CUR := by cases ad <;> rfl
@[simp] theorem storeHwin_A_PEND (ad : Adapter) (h : HwinResult α) (s : CoreState α) : (storeHwin ad s h).A_PEND = s.A_PEND := by cases ad <;> rfl
@[simp] theorem storeHwin_WZ_CUR (ad : Adapter) (h : HwinResult α) (s : CoreState α) : (storeHwin ad s h).WZ_CUR = s.WZ_CUR := by cases ad <;> rfl
@[simp] theorem storeHwin_WP_CUR (ad : Adapter) (h : HwinResult α) (s : CoreState α) : (storeHwin ad s h).WP_CUR = s.WP_CUR := by cases ad <;> rfl
@[simp] theorem storeHwin_WZ_PEND (ad : Adapter) (h : HwinResult α) (s : CoreState α) : (storeHwin ad s h).WZ_PEND = s.WZ_PEND := by cases ad <;> rfl
@[simp] theorem storeHwin_WP_PEND (ad : Adapter) (h : HwinResult α) (s : CoreState α) : (storeHwin ad s h).WP_PEND = s.WP_PEND := by cases ad <;> rfl
@[simp] theorem storeHwin_GP_CUR (ad : Adapter) (h : HwinResult α) (s : CoreState α) : (storeHwin ad s h).GP_CUR = s.GP_CUR := by cases ad <;> rfl
@[simp] theorem storeHwin_GP_PEND (ad : Adapter) (h : HwinResult α) (s : CoreState α) : (storeHwin ad s h).GP_PEND = s.GP_PEND := by cases ad <;> rfl
@[simp] theorem storeHwin_H (ad : Adapter) (h : HwinResult α) (s : CoreState α) : (storeHwin ad s h).H = s.H := by cases ad <;> rfl
@[simp] theorem storeHwin_E (ad : Adapter) (h : HwinResult α) (s : CoreState α) : (storeHwin ad s h).E = s.E := by cases ad <;> rfl
@[simp] theorem storeHwin_GSTATE (ad : Adapter) (h : HwinResult α) (s : CoreState α) : (storeHwin ad s h).GSTATE = s.GSTATE := by cases ad <;> rfl
@[simp] theorem storeHwin_SYN_MEM (ad : Adapter) (h : HwinResult α) (s : CoreState α) : (storeHwin ad s h).SYN_MEM = s.SYN_MEM := by cases ad <;> rfl
@[simp] theorem storeHwin_WF_ZMEM (ad : Adapter) (h : HwinResult α) (s : CoreState α) : (storeHwin ad s h).WF_ZMEM = s.WF_ZMEM := by cases ad <;> rfl
@[simp] theorem storeHwin_WF_PMEM (ad : Adapter) (h : HwinResult α) (s : CoreState α) : (storeHwin ad s h).WF_PMEM = s.WF_PMEM := by cases ad <;> rfl
@[simp] theorem storeHwin_PWF_ZMEM (ad : Adapter) (h : HwinResult α) (s : CoreState α) : (storeHwin ad s h).PWF_ZMEM = s.PWF_ZMEM := by cases ad <;> rfl
@[simp] theorem storeHwin_PWF_PMEM (ad : Adapter) (h : HwinResult α) (s : CoreState α) : (storeHwin ad s h).PWF_PMEM = s.PWF_PMEM := by cases ad <;> rfl
@[simp] theorem storeHwin_PF_A10 (ad : Adapter) (h : HwinResult α) (s : CoreState α) : (storeHwin ad s h).PF_A10 = s.PF_A10 := by cases ad <;> rfl
@[simp] theorem storeHwin_PF_K1 (ad : Adapter) (h : HwinResult α) (s : CoreState α) : (storeHwin ad s h).PF_K1 = s.PF_K1 := by cases ad <;> rfl
@[simp] theorem storeHwin_PF_STATE (ad : Adapter) (h : HwinResult α) (s : CoreState α) : (storeHwin ad s h).PF_STATE = s.PF_STATE := by cases ad <;> rfl
@[simp] theorem storeHwin_QIN (ad : Adapter) (h : HwinResult α) (s : CoreState α) : (storeHwin ad s h).QIN = s.QIN := by cases ad <;> rfl
@[simp] theorem storeHwin_QEXC (ad : Adapter) (h : HwinResult α) (s : CoreState α) : (storeHwin ad s h).QEXC = s.QEXC := by cases ad <;> rfl
@[simp] theorem storeHwin_QSYN (ad : Adapter) (h : HwinResult α) (s : CoreState α) : (storeHwin ad s h).QSYN = s.QSYN := by cases ad <;> rfl
@[simp] theorem storeHwin_QLG (ad : Adapter) (h : HwinResult α) (s : CoreState α) : (storeHwin ad s h).QLG = s.QLG := by cases ad <;> rfl

@[simp] theorem ringWrite_CTRL (q : SpeechRing) (v : Vec5 α) (s : CoreState α) : (ringWrite s q v).CTRL = s.CTRL := by cases q <;> rfl
@[simp] theorem ringWrite_MODE (q : SpeechRing) (v : Vec5 α) (s : CoreState α) : (ringWrite s q v).MODE = s.MODE := by cases q <;> rfl
@[simp] theorem ringWrite_PF_EN (q : SpeechRing) (v : Vec5 α) (s : CoreState α) : (ringWrite s q v).PF_EN = s.PF_EN := by cases q <;> rfl
@[simp] theorem ringWrite_PHASE (q : SpeechRing) (v : Vec5 α) (s : CoreState α) : (ringWrite s q v).PHASE = s.PHASE := by cases q <;> rfl
@[simp] theorem ringWrite_VX (q : SpeechRing) (v : Vec5 α) (s : CoreState α) : (ringWrite s q v).VX = s.VX := by cases q <;> rfl
@[simp] theorem ringWrite_ERR (q : SpeechRing) (v : Vec5 α) (s : CoreState α) : (ringWrite s q v).ERR = s.ERR := by cases q <;> rfl
@[simp] theorem ringWrite_A_RDY (q : SpeechRing) (v : Vec5 α) (s : CoreState α) : (ringWrite s q v).A_RDY = s.A_RDY := by cases q <;> rfl
@[simp] theorem ringWrite_W_RDY (q : SpeechRing) (v : Vec5 α) (s : CoreState α) : (ringWrite s q v).W_RDY = s.W_RDY := by cases q <;> rfl
@[simp] theorem ringWrite_GP_RDY (q : SpeechRing) (v : Vec5 α) (s : CoreState α) : (ringWrite s q v).GP_RDY = s.GP_RDY := by cases q <;> rfl
@[simp] theorem ringWrite_A_CUR (q : SpeechRing) (v : Vec5 α) (s : CoreState α) : (ringWrite s q v).A_CUR = s.A_CUR := by cases q <;> rfl
@[simp] theorem ringWrite_A_PEND (q : SpeechRing) (v : Vec5 α) (s : CoreState α) : (ringWrite s q v).A_PEND = s.A_PEND := by cases q <;> rfl
@[simp] theorem ringWrite_WZ_CUR (q : SpeechRing) (v : Vec5 α) (s : CoreState α) : (ringWrite s q v).WZ_CUR = s.WZ_CUR := by cases q <;> rfl
@[simp] theorem ringWrite_WP_CUR (q : SpeechRing) (v : Vec5 α) (s : CoreState α) : (ringWrite s q v).WP_CUR = s.WP_CUR := by cases q <;> rfl
@[simp] theorem ringWrite_WZ_PEND (q : SpeechRing) (v : Vec5 α) (s : CoreState α) : (ringWrite s q v).WZ_PEND = s.WZ_PEND := by cases q <;> rfl
@[simp] theorem ringWrite_WP_PEND (q : SpeechRing) (v : Vec5 α) (s : CoreState α) : (ringWrite s q v).WP_PEND = s.WP_PEND := by cases q <;> rfl
@[simp] theorem ringWrite_GP_CUR (q : SpeechRing) (v : Vec5 α) (s : CoreState α) : (ringWrite s q v).GP_CUR = s.GP_CUR := by cases q <;> rfl
@[simp] theorem ringWrite_GP_PEND (q : SpeechRing) (v : Vec5 α) (s : CoreState α) : (ringWrite s q v).GP_PEND = s.GP_PEND := by cases q <;> rfl
@[simp] theorem ringWrite_H (q : SpeechRing) (v : Vec5 α) (s : CoreState α) : (ringWrite s q v).H = s.H := by cases q <;> rfl
@[simp] theorem ringWrite_E (q : SpeechRing) (v : Vec5 α) (s : CoreState α) : (ringWrite s q v).E = s.E := by cases q <;> rfl
@[simp] theorem ringWrite_GSTATE (q : SpeechRing) (v : Vec5 α) (s : CoreState α) : (ringWrite s q v).GSTATE = s.GSTATE := by cases q <;> rfl
@[simp] theorem ringWrite_SYN_MEM (q : SpeechRing) (v : Vec5 α) (s : CoreState α) : (ringWrite s q v).SYN_MEM = s.SYN_MEM := by cases q <;> rfl
@[simp] theorem ringWrite_WF_ZMEM (q : SpeechRing) (v : Vec5 α) (s : CoreState α) : (ringWrite s q v).WF_ZMEM = s.WF_ZMEM := by cases q <;> rfl
@[simp] theorem ringWrite_WF_PMEM (q : SpeechRing) (v : Vec5 α) (s : CoreState α) : (ringWrite s q v).WF_PMEM = s.WF_PMEM := by cases q <;> rfl
@[simp] theorem ringWrite_PWF_ZMEM (q : SpeechRing) (v : Vec5 α) (s : CoreState α) : (ringWrite s q v).PWF_ZMEM = s.PWF_ZMEM := by cases q <;> rfl
@[simp] theorem ringWrite_PWF_PMEM (q : SpeechRing) (v : Vec5 α) (s : CoreState α) : (ringWrite s q v).PWF_PMEM = s.PWF_PMEM := by cases q <;> rfl
@[simp] theorem ringWrite_PF_A10 (q : SpeechRing) (v : Vec5 α) (s : CoreState α) : (ringWrite s q v).PF_A10 = s.PF_A10 := by cases q <;> rfl
@[simp] theorem ringWrite_PF_K1 (q : SpeechRing) (v : Vec5 α) (s : CoreState α) : (ringWrite s q v).PF_K1 = s.PF_K1 := by cases q <;> rfl
@[simp] theorem ringWrite_PF_STATE (q : SpeechRing) (v : Vec5 α) (s : CoreState α) : (ringWrite s q v).PF_STATE = s.PF_STATE := by cases q <;> rfl
@[simp] theorem ringWrite_QLG (q : SpeechRing) (v : Vec5 α) (s : CoreState α) : (ringWrite s q v).QLG = s.QLG := by cases q <;> rfl
@[simp] theorem ringWrite_SB_SYN (q : SpeechRing) (v : Vec5 α) (s : CoreState α) : (ringWrite s q v).SB_SYN = s.SB_SYN := by cases q <;> rfl
@[simp] theorem ringWrite_SB_W (q : SpeechRing) (v : Vec5 α) (s : CoreState α) : (ringWrite s q v).SB_W = s.SB_W := by cases q <;> rfl
@[simp] theorem ringWrite_SB_G (q : SpeechRing) (v : Vec5 α) (s : CoreState α) : (ringWrite s q v).SB_G = s.SB_G := by cases q <;> rfl
@[simp] theorem ringWrite_REXP_SYN (q : SpeechRing) (v : Vec5 α) (s : CoreState α) : (ringWrite s q v).REXP_SYN = s.REXP_SYN := by cases q <;> rfl
@[simp] theorem ringWrite_REXP_W (q : SpeechRing) (v : Vec5 α) (s : CoreState α) : (ringWrite s q v).REXP_W = s.REXP_W := by cases q <;> rfl
@[simp] theorem ringWrite_REXP_G (q : SpeechRing) (v : Vec5 α) (s : CoreState α) : (ringWrite s q v).REXP_G = s.REXP_G := by cases q <;> rfl

@[simp] theorem coreUpdgain_CTRL (C : Cfg α) (et : Vec5 α) (s : CoreState α) : (coreUpdgain C et s).CTRL = s.CTRL := rfl
@[simp] theorem coreUpdgain_MODE (C : Cfg α) (et : Vec5 α) (s : CoreState α) : (coreUpdgain C et s).MODE = s.MODE := rfl
@[simp] theorem coreUpdgain_PF_EN (C : Cfg α) (et : Vec5 α) (s : CoreState α) : (coreUpdgain C et s).PF_EN = s.PF_EN := rfl
@[simp] theorem coreUpdgain_PHASE (C : Cfg α) (et : Vec5 α) (s : CoreState α) : (coreUpdgain C et s).PHASE = s.PHASE := rfl
@[simp] theorem coreUpdgain_VX (C : Cfg α) (et : Vec5 α) (s : CoreState α) : (coreUpdgain C et s).VX = s.VX := rfl
@[simp] theorem coreUpdgain_ERR (C : Cfg α) (et : Vec5 α) (s : CoreState α) : (coreUpdgain C et s).ERR = s.ERR := rfl
@[simp] theorem coreUpdgain_A_RDY (C : Cfg α) (et : Vec5 α) (s : CoreState α) : (coreUpdgain C et s).A_RDY = s.A_RDY := rfl
@[simp] theorem coreUpdgain_W_RDY (C : Cfg α) (et : Vec5 α) (s : CoreState α) : (coreUpdgain C et s).W_RDY = s.W_RDY := rfl
@[simp] theorem coreUpdgain_GP_RDY (C : Cfg α) (et : Vec5 α) (s : CoreState α) : (coreUpdgain C et s).GP_RDY = s.GP_RDY := rfl
@[simp] theorem coreUpdgain_A_CUR (C : Cfg α) (et : Vec5 α) (s : CoreState α) : (coreUpdgain C et s).A_CUR = s.A_CUR := rfl
@[simp] theorem coreUpdgain_A_PEND (C : Cfg α) (et : Vec5 α) (s : CoreState α) : (coreUpdgain C et s).A_PEND = s.A_PEND := rfl
@[simp] theorem coreUpdgain_WZ_CUR (C : Cfg α) (et : Vec5 α) (s : CoreState α) : (coreUpdgain C et s).WZ_CUR = s.WZ_CUR := rfl
@[simp] theorem coreUpdgain_WP_CUR (C : Cfg α) (et : Vec5 α) (s : CoreState α) : (coreUpdgain C et s).WP_CUR = s.WP_CUR := rfl
@[simp] theorem coreUpdgain_WZ_PEND (C : Cfg α) (et : Vec5 α) (s : CoreState α) : (coreUpdgain C et s).WZ_PEND = s.WZ_PEND := rfl
@[simp] theorem coreUpdgain_WP_PEND (C : Cfg α) (et : Vec5 α) (s : CoreState α) : (coreUpdgain C et s).WP_PEND = s.WP_PEND := rfl
@[simp] theorem coreUpdgain_GP_CUR (C : Cfg α) (et : Vec5 α) (s : CoreState α) : (coreUpdgain C et s).GP_CUR = s.GP_CUR := rfl
@[simp] theorem coreUpdgain_GP_PEND (C : Cfg α) (et : Vec5 α) (s : CoreState α) : (coreUpdgain C et s).GP_PEND = s.GP_PEND := rfl
@[simp] theorem coreUpdgain_H (C : Cfg α) (et : Vec5 α) (s : CoreState α) : (coreUpdgain C et s).H = s.H := rfl
@[simp] theorem coreUpdgain_E (C : Cfg α) (et : Vec5 α) (s : CoreState α) : (coreUpdgain C et s).E = s.E := rfl
@[simp] theorem coreUpdgain_GSTATE (C : Cfg α) (et : Vec5 α) (s : CoreState α) : (coreUpdgain C et s).GSTATE = push s.GSTATE (logGain C.num C.goff C.msFloor et) := rfl
@[simp] theorem coreUpdgain_SYN_MEM (C : Cfg α) (et : Vec5 α) (s : CoreState α) : (coreUpdgain C et s).SYN_MEM = s.SYN_MEM := rfl
@[simp] theorem coreUpdgain_WF_ZMEM (C : Cfg α) (et : Vec5 α) (s : CoreState α) : (coreUpdgain C et s).WF_ZMEM = s.WF_ZMEM := rfl
@[simp] theorem coreUpdgain_WF_PMEM (C : Cfg α) (et : Vec5 α) (s : CoreState α) : (coreUpdgain C et s).WF_PMEM = s.WF_PMEM := rfl
@[simp] theorem coreUpdgain_PWF_ZMEM (C : Cfg α) (et : Vec5 α) (s : CoreState α) : (coreUpdgain C et s).PWF_ZMEM = s.PWF_ZMEM := rfl
@[simp] theorem coreUpdgain_PWF_PMEM (C : Cfg α) (et : Vec5 α) (s : CoreState α) : (coreUpdgain C et s).PWF_PMEM = s.PWF_PMEM := rfl
@[simp] theorem coreUpdgain_PF_A10 (C : Cfg α) (et : Vec5 α) (s : CoreState α) : (coreUpdgain C et s).PF_A10 = s.PF_A10 := rfl
@[simp] theorem coreUpdgain_PF_K1 (C : Cfg α) (et : Vec5 α) (s : CoreState α) : (coreUpdgain C et s).PF_K1 = s.PF_K1 := rfl
@[simp] theorem coreUpdgain_PF_STATE (C : Cfg α) (et : Vec5 α) (s : CoreState α) : (coreUpdgain C et s).PF_STATE = s.PF_STATE := rfl
@[simp] theorem coreUpdgain_QIN (C : Cfg α) (et : Vec5 α) (s : CoreState α) : (coreUpdgain C et s).QIN = s.QIN := rfl
@[simp] theorem coreUpdgain_QEXC (C : Cfg α) (et : Vec5 α) (s : CoreState α) : (coreUpdgain C et s).QEXC = s.QEXC := rfl
@[simp] theorem coreUpdgain_QSYN (C : Cfg α) (et : Vec5 α) (s : CoreState α) : (coreUpdgain C et s).QSYN = s.QSYN := rfl
@[simp] theorem coreUpdgain_QLG (C : Cfg α) (et : Vec5 α) (s : CoreState α) : (coreUpdgain C et s).QLG = s.QLG.set s.VX.val (logGain C.num C.goff C.msFloor et) := rfl
@[simp] theorem coreUpdgain_SB_SYN (C : Cfg α) (et : Vec5 α) (s : CoreState α) : (coreUpdgain C et s).SB_SYN = s.SB_SYN := rfl
@[simp] theorem coreUpdgain_SB_W (C : Cfg α) (et : Vec5 α) (s : CoreState α) : (coreUpdgain C et s).SB_W = s.SB_W := rfl
@[simp] theorem coreUpdgain_SB_G (C : Cfg α) (et : Vec5 α) (s : CoreState α) : (coreUpdgain C et s).SB_G = s.SB_G := rfl
@[simp] theorem coreUpdgain_REXP_SYN (C : Cfg α) (et : Vec5 α) (s : CoreState α) : (coreUpdgain C et s).REXP_SYN = s.REXP_SYN := rfl
@[simp] theorem coreUpdgain_REXP_W (C : Cfg α) (et : Vec5 α) (s : CoreState α) : (coreUpdgain C et s).REXP_W = s.REXP_W := rfl
@[simp] theorem coreUpdgain_REXP_G (C : Cfg α) (et : Vec5 α) (s : CoreState α) : (coreUpdgain C et s).REXP_G = s.REXP_G := rfl

@[simp] theorem corePwfilt_CTRL (C : Cfg α) (inp : Vec5 α) (s : CoreState α) : (corePwfilt C inp s).1.CTRL = s.CTRL := rfl
@[simp] theorem corePwfilt_MODE (C : Cfg α) (inp : Vec5 α) (s : CoreState α) : (corePwfilt C inp s).1.MODE = s.MODE := rfl
@[simp] theorem corePwfilt_PF_EN (C : Cfg α) (inp : Vec5 α) (s : CoreState α) : (corePwfilt C inp s).1.PF_EN = s.PF_EN := rfl
@[simp] theorem corePwfilt_PHASE (C : Cfg α) (inp : Vec5 α) (s : CoreState α) : (corePwfilt C inp s).1.PHASE = s.PHASE := rfl
@[simp] theorem corePwfilt_VX (C : Cfg α) (inp : Vec5 α) (s : CoreState α) : (corePwfilt C inp s).1.VX = s.VX := rfl
@[simp] theorem corePwfilt_ERR (C : Cfg α) (inp : Vec5 α) (s : CoreState α) : (corePwfilt C inp s).1.ERR = s.ERR := rfl
@[simp] theorem corePwfilt_A_RDY (C : Cfg α) (inp : Vec5 α) (s : CoreState α) : (corePwfilt C inp s).1.A_RDY = s.A_RDY := rfl
@[simp] theorem corePwfilt_W_RDY (C : Cfg α) (inp : Vec5 α) (s : CoreState α) : (corePwfilt C inp s).1.W_RDY = s.W_RDY := rfl
@[simp] theorem corePwfilt_GP_RDY (C : Cfg α) (inp : Vec5 α) (s : CoreState α) : (corePwfilt C inp s).1.GP_RDY = s.GP_RDY := rfl
@[simp] theorem corePwfilt_A_CUR (C : Cfg α) (inp : Vec5 α) (s : CoreState α) : (corePwfilt C inp s).1.A_CUR = s.A_CUR := rfl
@[simp] theorem corePwfilt_A_PEND (C : Cfg α) (inp : Vec5 α) (s : CoreState α) : (corePwfilt C inp s).1.A_PEND = s.A_PEND := rfl
@[simp] theorem corePwfilt_WZ_CUR (C : Cfg α) (inp : Vec5 α) (s : CoreState α) : (corePwfilt C inp s).1.WZ_CUR = s.WZ_CUR := rfl
@[simp] theorem corePwfilt_WP_CUR (C : Cfg α) (inp : Vec5 α) (s : CoreState α) : (corePwfilt C inp s).1.WP_CUR = s.WP_CUR := rfl
@[simp] theorem corePwfilt_WZ_PEND (C : Cfg α) (inp : Vec5 α) (s : CoreState α) : (corePwfilt C inp s).1.WZ_PEND = s.WZ_PEND := rfl
@[simp] theorem corePwfilt_WP_PEND (C : Cfg α) (inp : Vec5 α) (s : CoreState α) : (corePwfilt C inp s).1.WP_PEND = s.WP_PEND := rfl
@[simp] theorem corePwfilt_GP_CUR (C : Cfg α) (inp : Vec5 α) (s : CoreState α) : (corePwfilt C inp s).1.GP_CUR = s.GP_CUR := rfl
@[simp] theorem corePwfilt_GP_PEND (C : Cfg α) (inp : Vec5 α) (s : CoreState α) : (corePwfilt C inp s).1.GP_PEND = s.GP_PEND := rfl
@[simp] theorem corePwfilt_H (C : Cfg α) (inp : Vec5 α) (s : CoreState α) : (corePwfilt C inp s).1.H = s.H := rfl
@[simp] theorem corePwfilt_E (C : Cfg α) (inp : Vec5 α) (s : CoreState α) : (corePwfilt C inp s).1.E = s.E := rfl
@[simp] theorem corePwfilt_GSTATE (C : Cfg α) (inp : Vec5 α) (s : CoreState α) : (corePwfilt C inp s).1.GSTATE = s.GSTATE := rfl
@[simp] theorem corePwfilt_SYN_MEM (C : Cfg α) (inp : Vec5 α) (s : CoreState α) : (corePwfilt C inp s).1.SYN_MEM = s.SYN_MEM := rfl
@[simp] theorem corePwfilt_WF_ZMEM (C : Cfg α) (inp : Vec5 α) (s : CoreState α) : (corePwfilt C inp s).1.WF_ZMEM = s.WF_ZMEM := rfl
@[simp] theorem corePwfilt_WF_PMEM (C : Cfg α) (inp : Vec5 α) (s : CoreState α) : (corePwfilt C inp s).1.WF_PMEM = s.WF_PMEM := rfl
@[simp] theorem corePwfilt_PF_A10 (C : Cfg α) (inp : Vec5 α) (s : CoreState α) : (corePwfilt C inp s).1.PF_A10 = s.PF_A10 := rfl
@[simp] theorem corePwfilt_PF_K1 (C : Cfg α) (inp : Vec5 α) (s : CoreState α) : (corePwfilt C inp s).1.PF_K1 = s.PF_K1 := rfl
@[simp] theorem corePwfilt_PF_STATE (C : Cfg α) (inp : Vec5 α) (s : CoreState α) : (corePwfilt C inp s).1.PF_STATE = s.PF_STATE := rfl
@[simp] theorem corePwfilt_QIN (C : Cfg α) (inp : Vec5 α) (s : CoreState α) : (corePwfilt C inp s).1.QIN = s.QIN := rfl
@[simp] theorem corePwfilt_QEXC (C : Cfg α) (inp : Vec5 α) (s : CoreState α) : (corePwfilt C inp s).1.QEXC = s.QEXC := rfl
@[simp] theorem corePwfilt_QSYN (C : Cfg α) (inp : Vec5 α) (s : CoreState α) : (corePwfilt C inp s).1.QSYN = s.QSYN := rfl
@[simp] theorem corePwfilt_QLG (C : Cfg α) (inp : Vec5 α) (s : CoreState α) : (corePwfilt C inp s).1.QLG = s.QLG := rfl
@[simp] theorem corePwfilt_SB_SYN (C : Cfg α) (inp : Vec5 α) (s : CoreState α) : (corePwfilt C inp s).1.SB_SYN = s.SB_SYN := rfl
@[simp] theorem corePwfilt_SB_W (C : Cfg α) (inp : Vec5 α) (s : CoreState α) : (corePwfilt C inp s).1.SB_W = s.SB_W := rfl
@[simp] theorem corePwfilt_SB_G (C : Cfg α) (inp : Vec5 α) (s : CoreState α) : (corePwfilt C inp s).1.SB_G = s.SB_G := rfl
@[simp] theorem corePwfilt_REXP_SYN (C : Cfg α) (inp : Vec5 α) (s : CoreState α) : (corePwfilt C inp s).1.REXP_SYN = s.REXP_SYN := rfl
@[simp] theorem corePwfilt_REXP_W (C : Cfg α) (inp : Vec5 α) (s : CoreState α) : (corePwfilt C inp s).1.REXP_W = s.REXP_W := rfl
@[simp] theorem corePwfilt_REXP_G (C : Cfg α) (inp : Vec5 α) (s : CoreState α) : (corePwfilt C inp s).1.REXP_G = s.REXP_G := rfl

@[simp] theorem coreMemupd_CTRL (C : Cfg α) (et : Vec5 α) (s : CoreState α) : (coreMemupd C et s).1.CTRL = s.CTRL := rfl
@[simp] theorem coreMemupd_MODE (C : Cfg α) (et : Vec5 α) (s : CoreState α) : (coreMemupd C et s).1.MODE = s.MODE := rfl
@[simp] theorem coreMemupd_PF_EN (C : Cfg α) (et : Vec5 α) (s : CoreState α) : (coreMemupd C et s).1.PF_EN = s.PF_EN := rfl
@[simp] theorem coreMemupd_PHASE (C : Cfg α) (et : Vec5 α) (s : CoreState α) : (coreMemupd C et s).1.PHASE = s.PHASE := rfl
@[simp] theorem coreMemupd_VX (C : Cfg α) (et : Vec5 α) (s : CoreState α) : (coreMemupd C et s).1.VX = s.VX := rfl
@[simp] theorem coreMemupd_ERR (C : Cfg α) (et : Vec5 α) (s : CoreState α) : (coreMemupd C et s).1.ERR = s.ERR := rfl
@[simp] theorem coreMemupd_A_RDY (C : Cfg α) (et : Vec5 α) (s : CoreState α) : (coreMemupd C et s).1.A_RDY = s.A_RDY := rfl
@[simp] theorem coreMemupd_W_RDY (C : Cfg α) (et : Vec5 α) (s : CoreState α) : (coreMemupd C et s).1.W_RDY = s.W_RDY := rfl
@[simp] theorem coreMemupd_GP_RDY (C : Cfg α) (et : Vec5 α) (s : CoreState α) : (coreMemupd C et s).1.GP_RDY = s.GP_RDY := rfl
@[simp] theorem coreMemupd_A_CUR (C : Cfg α) (et : Vec5 α) (s : CoreState α) : (coreMemupd C et s).1.A_CUR = s.A_CUR := rfl
@[simp] theorem coreMemupd_A_PEND (C : Cfg α) (et : Vec5 α) (s : CoreState α) : (coreMemupd C et s).1.A_PEND = s.A_PEND := rfl
@[simp] theorem coreMemupd_WZ_CUR (C : Cfg α) (et : Vec5 α) (s : CoreState α) : (coreMemupd C et s).1.WZ_CUR = s.WZ_CUR := rfl
@[simp] theorem coreMemupd_WP_CUR (C : Cfg α) (et : Vec5 α) (s : CoreState α) : (coreMemupd C et s).1.WP_CUR = s.WP_CUR := rfl
@[simp] theorem coreMemupd_WZ_PEND (C : Cfg α) (et : Vec5 α) (s : CoreState α) : (coreMemupd C et s).1.WZ_PEND = s.WZ_PEND := rfl
@[simp] theorem coreMemupd_WP_PEND (C : Cfg α) (et : Vec5 α) (s : CoreState α) : (coreMemupd C et s).1.WP_PEND = s.WP_PEND := rfl
@[simp] theorem coreMemupd_GP_CUR (C : Cfg α) (et : Vec5 α) (s : CoreState α) : (coreMemupd C et s).1.GP_CUR = s.GP_CUR := rfl
@[simp] theorem coreMemupd_GP_PEND (C : Cfg α) (et : Vec5 α) (s : CoreState α) : (coreMemupd C et s).1.GP_PEND = s.GP_PEND := rfl
@[simp] theorem coreMemupd_H (C : Cfg α) (et : Vec5 α) (s : CoreState α) : (coreMemupd C et s).1.H = s.H := rfl
@[simp] theorem coreMemupd_E (C : Cfg α) (et : Vec5 α) (s : CoreState α) : (coreMemupd C et s).1.E = s.E := rfl
@[simp] theorem coreMemupd_GSTATE (C : Cfg α) (et : Vec5 α) (s : CoreState α) : (coreMemupd C et s).1.GSTATE = s.GSTATE := rfl
@[simp] theorem coreMemupd_PWF_ZMEM (C : Cfg α) (et : Vec5 α) (s : CoreState α) : (coreMemupd C et s).1.PWF_ZMEM = s.PWF_ZMEM := rfl
@[simp] theorem coreMemupd_PWF_PMEM (C : Cfg α) (et : Vec5 α) (s : CoreState α) : (coreMemupd C et s).1.PWF_PMEM = s.PWF_PMEM := rfl
@[simp] theorem coreMemupd_PF_A10 (C : Cfg α) (et : Vec5 α) (s : CoreState α) : (coreMemupd C et s).1.PF_A10 = s.PF_A10 := rfl
@[simp] theorem coreMemupd_PF_K1 (C : Cfg α) (et : Vec5 α) (s : CoreState α) : (coreMemupd C et s).1.PF_K1 = s.PF_K1 := rfl
@[simp] theorem coreMemupd_PF_STATE (C : Cfg α) (et : Vec5 α) (s : CoreState α) : (coreMemupd C et s).1.PF_STATE = s.PF_STATE := rfl
@[simp] theorem coreMemupd_QIN (C : Cfg α) (et : Vec5 α) (s : CoreState α) : (coreMemupd C et s).1.QIN = s.QIN := rfl
@[simp] theorem coreMemupd_QEXC (C : Cfg α) (et : Vec5 α) (s : CoreState α) : (coreMemupd C et s).1.QEXC = s.QEXC := rfl
@[simp] theorem coreMemupd_QSYN (C : Cfg α) (et : Vec5 α) (s : CoreState α) : (coreMemupd C et s).1.QSYN = s.QSYN := rfl
@[simp] theorem coreMemupd_QLG (C : Cfg α) (et : Vec5 α) (s : CoreState α) : (coreMemupd C et s).1.QLG = s.QLG := rfl
@[simp] theorem coreMemupd_SB_SYN (C : Cfg α) (et : Vec5 α) (s : CoreState α) : (coreMemupd C et s).1.SB_SYN = s.SB_SYN := rfl
@[simp] theorem coreMemupd_SB_W (C : Cfg α) (et : Vec5 α) (s : CoreState α) : (coreMemupd C et s).1.SB_W = s.SB_W := rfl
@[simp] theorem coreMemupd_SB_G (C : Cfg α) (et : Vec5 α) (s : CoreState α) : (coreMemupd C et s).1.SB_G = s.SB_G := rfl
@[simp] theorem coreMemupd_REXP_SYN (C : Cfg α) (et : Vec5 α) (s : CoreState α) : (coreMemupd C et s).1.REXP_SYN = s.REXP_SYN := rfl
@[simp] theorem coreMemupd_REXP_W (C : Cfg α) (et : Vec5 α) (s : CoreState α) : (coreMemupd C et s).1.REXP_W = s.REXP_W := rfl
@[simp] theorem coreMemupd_REXP_G (C : Cfg α) (et : Vec5 α) (s : CoreState α) : (coreMemupd C et s).1.REXP_G = s.REXP_G := rfl

@[simp] theorem corePostfilt_CTRL (C : Cfg α) (sq : Vec5 α) (s : CoreState α) : (corePostfilt C sq s).1.CTRL = s.CTRL := rfl
@[simp] theorem corePostfilt_MODE (C : Cfg α) (sq : Vec5 α) (s : CoreState α) : (corePostfilt C sq s).1.MODE = s.MODE := rfl
@[simp] theorem corePostfilt_PF_EN (C : Cfg α) (sq : Vec5 α) (s : CoreState α) : (corePostfilt C sq s).1.PF_EN = s.PF_EN := rfl
@[simp] theorem corePostfilt_PHASE (C : Cfg α) (sq : Vec5 α) (s : CoreState α) : (corePostfilt C sq s).1.PHASE = s.PHASE := rfl
@[simp] theorem corePostfilt_VX (C : Cfg α) (sq : Vec5 α) (s : CoreState α) : (corePostfilt C sq s).1.VX = s.VX := rfl
@[simp] theorem corePostfilt_ERR (C : Cfg α) (sq : Vec5 α) (s : CoreState α) : (corePostfilt C sq s).1.ERR = s.ERR := rfl
@[simp] theorem corePostfilt_A_RDY (C : Cfg α) (sq : Vec5 α) (s : CoreState α) : (corePostfilt C sq s).1.A_RDY = s.A_RDY := rfl
@[simp] theorem corePostfilt_W_RDY (C : Cfg α) (sq : Vec5 α) (s : CoreState α) : (corePostfilt C sq s).1.W_RDY = s.W_RDY := rfl
@[simp] theorem corePostfilt_GP_RDY (C : Cfg α) (sq : Vec5 α) (s : CoreState α) : (corePostfilt C sq s).1.GP_RDY = s.GP_RDY := rfl
@[simp] theorem corePostfilt_A_CUR (C : Cfg α) (sq : Vec5 α) (s : CoreState α) : (corePostfilt C sq s).1.A_CUR = s.A_CUR := rfl
@[simp] theorem corePostfilt_A_PEND (C : Cfg α) (sq : Vec5 α) (s : CoreState α) : (corePostfilt C sq s).1.A_PEND = s.A_PEND := rfl
@[simp] theorem corePostfilt_WZ_CUR (C : Cfg α) (sq : Vec5 α) (s : CoreState α) : (corePostfilt C sq s).1.WZ_CUR = s.WZ_CUR := rfl
@[simp] theorem corePostfilt_WP_CUR (C : Cfg α) (sq : Vec5 α) (s : CoreState α) : (corePostfilt C sq s).1.WP_CUR = s.WP_CUR := rfl
@[simp] theorem corePostfilt_WZ_PEND (C : Cfg α) (sq : Vec5 α) (s : CoreState α) : (corePostfilt C sq s).1.WZ_PEND = s.WZ_PEND := rfl
@[simp] theorem corePostfilt_WP_PEND (C : Cfg α) (sq : Vec5 α) (s : CoreState α) : (corePostfilt C sq s).1.WP_PEND = s.WP_PEND := rfl
@[simp] theorem corePostfilt_GP_CUR (C : Cfg α) (sq : Vec5 α) (s : CoreState α) : (corePostfilt C sq s).1.GP_CUR = s.GP_CUR := rfl
@[simp] theorem corePostfilt_GP_PEND (C : Cfg α) (sq : Vec5 α) (s : CoreState α) : (corePostfilt C sq s).1.GP_PEND = s.GP_PEND := rfl
@[simp] theorem corePostfilt_H (C : Cfg α) (sq : Vec5 α) (s : CoreState α) : (corePostfilt C sq s).1.H = s.H := rfl
@[simp] theorem corePostfilt_E (C : Cfg α) (sq : Vec5 α) (s : CoreState α) : (corePostfilt C sq s).1.E = s.E := rfl
@[simp] theorem corePostfilt_GSTATE (C : Cfg α) (sq : Vec5 α) (s : CoreState α) : (corePostfilt C sq s).1.GSTATE = s.GSTATE := rfl
@[simp] theorem corePostfilt_SYN_MEM (C : Cfg α) (sq : Vec5 α) (s : CoreState α) : (corePostfilt C sq s).1.SYN_MEM = s.SYN_MEM := rfl
@[simp] theorem corePostfilt_WF_ZMEM (C : Cfg α) (sq : Vec5 α) (s : CoreState α) : (corePostfilt C sq s).1.WF_ZMEM = s.WF_ZMEM := rfl
@[simp] theorem corePostfilt_WF_PMEM (C : Cfg α) (sq : Vec5 α) (s : CoreState α) : (corePostfilt C sq s).1.WF_PMEM = s.WF_PMEM := rfl
@[simp] theorem corePostfilt_PWF_ZMEM (C : Cfg α) (sq : Vec5 α) (s : CoreState α) : (corePostfilt C sq s).1.PWF_ZMEM = s.PWF_ZMEM := rfl
@[simp] theorem corePostfilt_PWF_PMEM (C : Cfg α) (sq : Vec5 α) (s : CoreState α) : (corePostfilt C sq s).1.PWF_PMEM = s.PWF_PMEM := rfl
@[simp] theorem corePostfilt_PF_A10 (C : Cfg α) (sq : Vec5 α) (s : CoreState α) : (corePostfilt C sq s).1.PF_A10 = s.PF_A10 := rfl
@[simp] theorem corePostfilt_PF_K1 (C : Cfg α) (sq : Vec5 α) (s : CoreState α) : (corePostfilt C sq s).1.PF_K1 = s.PF_K1 := rfl
@[simp] theorem corePostfilt_QIN (C : Cfg α) (sq : Vec5 α) (s : CoreState α) : (corePostfilt C sq s).1.QIN = s.QIN := rfl
@[simp] theorem corePostfilt_QEXC (C : Cfg α) (sq : Vec5 α) (s : CoreState α) : (corePostfilt C sq s).1.QEXC = s.QEXC := rfl
@[simp] theorem corePostfilt_QSYN (C : Cfg α) (sq : Vec5 α) (s : CoreState α) : (corePostfilt C sq s).1.QSYN = s.QSYN := rfl
@[simp] theorem corePostfilt_QLG (C : Cfg α) (sq : Vec5 α) (s : CoreState α) : (corePostfilt C sq s).1.QLG = s.QLG := rfl
@[simp] theorem corePostfilt_SB_SYN (C : Cfg α) (sq : Vec5 α) (s : CoreState α) : (corePostfilt C sq s).1.SB_SYN = s.SB_SYN := rfl
@[simp] theorem corePostfilt_SB_W (C : Cfg α) (sq : Vec5 α) (s : CoreState α) : (corePostfilt C sq s).1.SB_W = s.SB_W := rfl
@[simp] theorem corePostfilt_SB_G (C : Cfg α) (sq : Vec5 α) (s : CoreState α) : (corePostfilt C sq s).1.SB_G = s.SB_G := rfl
@[simp] theorem corePostfilt_REXP_SYN (C : Cfg α) (sq : Vec5 α) (s : CoreState α) : (corePostfilt C sq s).1.REXP_SYN = s.REXP_SYN := rfl
@[simp] theorem corePostfilt_REXP_W (C : Cfg α) (sq : Vec5 α) (s : CoreState α) : (corePostfilt C sq s).1.REXP_W = s.REXP_W := rfl
@[simp] theorem corePostfilt_REXP_G (C : Cfg α) (sq : Vec5 α) (s : CoreState α) : (corePostfilt C sq s).1.REXP_G = s.REXP_G := rfl

end Sys2Proof.Machine
end

