-- ==== Sys2Proof/Laws/Adapters.lean ====
section
/-! SUPPORT. The adapters and the schedule: what each can answer, and the elements each leaves alone. -/

namespace Sys2Proof.Machine

variable {α : Type}

/-- Both ends of ADAPT_SYN. -/
theorem adaptSyn_cases (C : Cfg α) (s : CoreState α) :
    let h := adapterHwin C .syn s (ringRead C.num s (.speech .qsyn) 20)
    (levdurSyn C.num h.R = none ∧ adaptSyn C s = storeHwin .syn s h)
      ∨ ∃ r, levdurSyn C.num h.R = some r
        ∧ adaptSyn C s = setPendingSyn (storeLevSyn (storeHwin .syn s h) r) (bwexp C.num r.a C.bwSyn 50) := by
  simp only [adaptSyn]
  split
  · exact .inl ⟨by assumption, rfl⟩
  · exact .inr ⟨_, by assumption, rfl⟩

/-- Both ends of ADAPT_GAIN. -/
theorem adaptGain_cases (C : Cfg α) (s : CoreState α) :
    let h := adapterHwin C .gain s (ringRead C.num s .qlg 4)
    (levdur C.num h.R 10 = none ∧ adaptGain C s = storeHwin .gain s h)
      ∨ ∃ a, levdur C.num h.R 10 = some a
        ∧ adaptGain C s = setPendingGain (storeHwin .gain s h) (bwexp C.num a C.bwG 10) := by
  simp only [adaptGain]
  split
  · exact .inl ⟨by assumption, rfl⟩
  · exact .inr ⟨_, by assumption, rfl⟩

/-- Both ends of ADAPT_WGT. -/
theorem adaptWgt_cases (C : Cfg α) (s : CoreState α) :
    let h := adapterHwin C .wgt s (ringRead C.num s (weightingSource s.MODE) 20)
    (levdur C.num h.R 10 = none ∧ adaptWgt C s = storeHwin .wgt s h)
      ∨ ∃ a, levdur C.num h.R 10 = some a
        ∧ adaptWgt C s = setPendingWgt (storeHwin .wgt s h) (bwexp C.num a C.bwWz 10) (bwexp C.num a C.bwWp 10) := by
  simp only [adaptWgt]
  split
  · exact .inl ⟨by assumption, rfl⟩
  · exact .inr ⟨_, by assumption, rfl⟩

/-- The four arms of SCHED. -/
theorem sched_cases (C : Cfg α) (s : CoreState α) :
    (s.PHASE = .p1 ∧ sched C s = adaptSyn C s)
      ∨ (s.PHASE = .p2 ∧ sched C s = commitGain (adaptGain C s))
      ∨ (s.PHASE = .p3 ∧ sched C s = coreShapen C (coreIresp C (commitWgt (adaptWgt C (commitSyn s)))))
      ∨ (s.PHASE = .p4 ∧ sched C s = s) := by
  unfold sched
  cases s.PHASE <;> simp

/-! ## Elements an adapter or SCHED never writes -/

@[simp] theorem adaptSyn_CTRL (C : Cfg α) (s : CoreState α) : (adaptSyn C s).CTRL = s.CTRL := by
  obtain ⟨-, h⟩ | ⟨r, -, h⟩ := adaptSyn_cases C s <;> rw [h] <;> rfl
@[simp] theorem adaptSyn_MODE (C : Cfg α) (s : CoreState α) : (adaptSyn C s).MODE = s.MODE := by
  obtain ⟨-, h⟩ | ⟨r, -, h⟩ := adaptSyn_cases C s <;> rw [h] <;> rfl
@[simp] theorem adaptSyn_PF_EN (C : Cfg α) (s : CoreState α) : (adaptSyn C s).PF_EN = s.PF_EN := by
  obtain ⟨-, h⟩ | ⟨r, -, h⟩ := adaptSyn_cases C s <;> rw [h] <;> rfl
@[simp] theorem adaptSyn_PHASE (C : Cfg α) (s : CoreState α) : (adaptSyn C s).PHASE = s.PHASE := by
  obtain ⟨-, h⟩ | ⟨r, -, h⟩ := adaptSyn_cases C s <;> rw [h] <;> rfl
@[simp] theorem adaptSyn_VX (C : Cfg α) (s : CoreState α) : (adaptSyn C s).VX = s.VX := by
  obtain ⟨-, h⟩ | ⟨r, -, h⟩ := adaptSyn_cases C s <;> rw [h] <;> rfl
@[simp] theorem adaptSyn_ERR (C : Cfg α) (s : CoreState α) : (adaptSyn C s).ERR = s.ERR := by
  obtain ⟨-, h⟩ | ⟨r, -, h⟩ := adaptSyn_cases C s <;> rw [h] <;> rfl
@[simp] theorem adaptSyn_W_RDY (C : Cfg α) (s : CoreState α) : (adaptSyn C s).W_RDY = s.W_RDY := by
  obtain ⟨-, h⟩ | ⟨r, -, h⟩ := adaptSyn_cases C s <;> rw [h] <;> rfl
@[simp] theorem adaptSyn_GP_RDY (C : Cfg α) (s : CoreState α) : (adaptSyn C s).GP_RDY = s.GP_RDY := by
  obtain ⟨-, h⟩ | ⟨r, -, h⟩ := adaptSyn_cases C s <;> rw [h] <;> rfl
@[simp] theorem adaptSyn_A_CUR (C : Cfg α) (s : CoreState α) : (adaptSyn C s).A_CUR = s.A_CUR := by
  obtain ⟨-, h⟩ | ⟨r, -, h⟩ := adaptSyn_cases C s <;> rw [h] <;> rfl
@[simp] theorem adaptSyn_WZ_CUR (C : Cfg α) (s : CoreState α) : (adaptSyn C s).WZ_CUR = s.WZ_CUR := by
  obtain ⟨-, h⟩ | ⟨r, -, h⟩ := adaptSyn_cases C s <;> rw [h] <;> rfl
@[simp] theorem adaptSyn_WP_CUR (C : Cfg α) (s : CoreState α) : (adaptSyn C s).WP_CUR = s.WP_CUR := by
  obtain ⟨-, h⟩ | ⟨r, -, h⟩ := adaptSyn_cases C s <;> rw [h] <;> rfl
@[simp] theorem adaptSyn_WZ_PEND (C : Cfg α) (s : CoreState α) : (adaptSyn C s).WZ_PEND = s.WZ_PEND := by
  obtain ⟨-, h⟩ | ⟨r, -, h⟩ := adaptSyn_cases C s <;> rw [h] <;> rfl
@[simp] theorem adaptSyn_WP_PEND (C : Cfg α) (s : CoreState α) : (adaptSyn C s).WP_PEND = s.WP_PEND := by
  obtain ⟨-, h⟩ | ⟨r, -, h⟩ := adaptSyn_cases C s <;> rw [h] <;> rfl
@[simp] theorem adaptSyn_GP_CUR (C : Cfg α) (s : CoreState α) : (adaptSyn C s).GP_CUR = s.GP_CUR := by
  obtain ⟨-, h⟩ | ⟨r, -, h⟩ := adaptSyn_cases C s <;> rw [h] <;> rfl
@[simp] theorem adaptSyn_GP_PEND (C : Cfg α) (s : CoreState α) : (adaptSyn C s).GP_PEND = s.GP_PEND := by
  obtain ⟨-, h⟩ | ⟨r, -, h⟩ := adaptSyn_cases C s <;> rw [h] <;> rfl
@[simp] theorem adaptSyn_H (C : Cfg α) (s : CoreState α) : (adaptSyn C s).H = s.H := by
  obtain ⟨-, h⟩ | ⟨r, -, h⟩ := adaptSyn_cases C s <;> rw [h] <;> rfl
@[simp] theorem adaptSyn_E (C : Cfg α) (s : CoreState α) : (adaptSyn C s).E = s.E := by
  obtain ⟨-, h⟩ | ⟨r, -, h⟩ := adaptSyn_cases C s <;> rw [h] <;> rfl
@[simp] theorem adaptSyn_GSTATE (C : Cfg α) (s : CoreState α) : (adaptSyn C s).GSTATE = s.GSTATE := by
  obtain ⟨-, h⟩ | ⟨r, -, h⟩ := adaptSyn_cases C s <;> rw [h] <;> rfl
@[simp] theorem adaptSyn_SYN_MEM (C : Cfg α) (s : CoreState α) : (adaptSyn C s).SYN_MEM = s.SYN_MEM := by
  obtain ⟨-, h⟩ | ⟨r, -, h⟩ := adaptSyn_cases C s <;> rw [h] <;> rfl
@[simp] theorem adaptSyn_WF_ZMEM (C : Cfg α) (s : CoreState α) : (adaptSyn C s).WF_ZMEM = s.WF_ZMEM := by
  obtain ⟨-, h⟩ | ⟨r, -, h⟩ := adaptSyn_cases C s <;> rw [h] <;> rfl
@[simp] theorem adaptSyn_WF_PMEM (C : Cfg α) (s : CoreState α) : (adaptSyn C s).WF_PMEM = s.WF_PMEM := by
  obtain ⟨-, h⟩ | ⟨r, -, h⟩ := adaptSyn_cases C s <;> rw [h] <;> rfl
@[simp] theorem adaptSyn_PWF_ZMEM (C : Cfg α) (s : CoreState α) : (adaptSyn C s).PWF_ZMEM = s.PWF_ZMEM := by
  obtain ⟨-, h⟩ | ⟨r, -, h⟩ := adaptSyn_cases C s <;> rw [h] <;> rfl
@[simp] theorem adaptSyn_PWF_PMEM (C : Cfg α) (s : CoreState α) : (adaptSyn C s).PWF_PMEM = s.PWF_PMEM := by
  obtain ⟨-, h⟩ | ⟨r, -, h⟩ := adaptSyn_cases C s <;> rw [h] <;> rfl
@[simp] theorem adaptSyn_PF_STATE (C : Cfg α) (s : CoreState α) : (adaptSyn C s).PF_STATE = s.PF_STATE := by
  obtain ⟨-, h⟩ | ⟨r, -, h⟩ := adaptSyn_cases C s <;> rw [h] <;> rfl
@[simp] theorem adaptSyn_QIN (C : Cfg α) (s : CoreState α) : (adaptSyn C s).QIN = s.QIN := by
  obtain ⟨-, h⟩ | ⟨r, -, h⟩ := adaptSyn_cases C s <;> rw [h] <;> rfl
@[simp] theorem adaptSyn_QEXC (C : Cfg α) (s : CoreState α) : (adaptSyn C s).QEXC = s.QEXC := by
  obtain ⟨-, h⟩ | ⟨r, -, h⟩ := adaptSyn_cases C s <;> rw [h] <;> rfl
@[simp] theorem adaptSyn_QSYN (C : Cfg α) (s : CoreState α) : (adaptSyn C s).QSYN = s.QSYN := by
  obtain ⟨-, h⟩ | ⟨r, -, h⟩ := adaptSyn_cases C s <;> rw [h] <;> rfl
@[simp] theorem adaptSyn_QLG (C : Cfg α) (s : CoreState α) : (adaptSyn C s).QLG = s.QLG := by
  obtain ⟨-, h⟩ | ⟨r, -, h⟩ := adaptSyn_cases C s <;> rw [h] <;> rfl
@[simp] theorem adaptSyn_SB_W (C : Cfg α) (s : CoreState α) : (adaptSyn C s).SB_W = s.SB_W := by
  obtain ⟨-, h⟩ | ⟨r, -, h⟩ := adaptSyn_cases C s <;> rw [h] <;> rfl
@[simp] theorem adaptSyn_SB_G (C : Cfg α) (s : CoreState α) : (adaptSyn C s).SB_G = s.SB_G := by
  obtain ⟨-, h⟩ | ⟨r, -, h⟩ := adaptSyn_cases C s <;> rw [h] <;> rfl
@[simp] theorem adaptSyn_REXP_W (C : Cfg α) (s : CoreState α) : (adaptSyn C s).REXP_W = s.REXP_W := by
  obtain ⟨-, h⟩ | ⟨r, -, h⟩ := adaptSyn_cases C s <;> rw [h] <;> rfl
@[simp] theorem adaptSyn_REXP_G (C : Cfg α) (s : CoreState α) : (adaptSyn C s).REXP_G = s.REXP_G := by
  obtain ⟨-, h⟩ | ⟨r, -, h⟩ := adaptSyn_cases C s <;> rw [h] <;> rfl

@[simp] theorem adaptGain_CTRL (C : Cfg α) (s : CoreState α) : (adaptGain C s).CTRL = s.CTRL := by
  obtain ⟨-, h⟩ | ⟨r, -, h⟩ := adaptGain_cases C s <;> rw [h] <;> rfl
@[simp] theorem adaptGain_MODE (C : Cfg α) (s : CoreState α) : (adaptGain C s).MODE = s.MODE := by
  obtain ⟨-, h⟩ | ⟨r, -, h⟩ := adaptGain_cases C s <;> rw [h] <;> rfl
@[simp] theorem adaptGain_PF_EN (C : Cfg α) (s : CoreState α) : (adaptGain C s).PF_EN = s.PF_EN := by
  obtain ⟨-, h⟩ | ⟨r, -, h⟩ := adaptGain_cases C s <;> rw [h] <;> rfl
@[simp] theorem adaptGain_PHASE (C : Cfg α) (s : CoreState α) : (adaptGain C s).PHASE = s.PHASE := by
  obtain ⟨-, h⟩ | ⟨r, -, h⟩ := adaptGain_cases C s <;> rw [h] <;> rfl
@[simp] theorem adaptGain_VX (C : Cfg α) (s : CoreState α) : (adaptGain C s).VX = s.VX := by
  obtain ⟨-, h⟩ | ⟨r, -, h⟩ := adaptGain_cases C s <;> rw [h] <;> rfl
@[simp] theorem adaptGain_ERR (C : Cfg α) (s : CoreState α) : (adaptGain C s).ERR = s.ERR := by
  obtain ⟨-, h⟩ | ⟨r, -, h⟩ := adaptGain_cases C s <;> rw [h] <;> rfl
@[simp] theorem adaptGain_A_RDY (C : Cfg α) (s : CoreState α) : (adaptGain C s).A_RDY = s.A_RDY := by
  obtain ⟨-, h⟩ | ⟨r, -, h⟩ := adaptGain_cases C s <;> rw [h] <;> rfl
@[simp] theorem adaptGain_W_RDY (C : Cfg α) (s : CoreState α) : (adaptGain C s).W_RDY = s.W_RDY := by
  obtain ⟨-, h⟩ | ⟨r, -, h⟩ := adaptGain_cases C s <;> rw [h] <;> rfl
@[simp] theorem adaptGain_A_CUR (C : Cfg α) (s : CoreState α) : (adaptGain C s).A_CUR = s.A_CUR := by
  obtain ⟨-, h⟩ | ⟨r, -, h⟩ := adaptGain_cases C s <;> rw [h] <;> rfl
@[simp] theorem adaptGain_A_PEND (C : Cfg α) (s : CoreState α) : (adaptGain C s).A_PEND = s.A_PEND := by
  obtain ⟨-, h⟩ | ⟨r, -, h⟩ := adaptGain_cases C s <;> rw [h] <;> rfl
@[simp] theorem adaptGain_WZ_CUR (C : Cfg α) (s : CoreState α) : (adaptGain C s).WZ_CUR = s.WZ_CUR := by
  obtain ⟨-, h⟩ | ⟨r, -, h⟩ := adaptGain_cases C s <;> rw [h] <;> rfl
@[simp] theorem adaptGain_WP_CUR (C : Cfg α) (s : CoreState α) : (adaptGain C s).WP_CUR = s.WP_CUR := by
  obtain ⟨-, h⟩ | ⟨r, -, h⟩ := adaptGain_cases C s <;> rw [h] <;> rfl
@[simp] theorem adaptGain_WZ_PEND (C : Cfg α) (s : CoreState α) : (adaptGain C s).WZ_PEND = s.WZ_PEND := by
  obtain ⟨-, h⟩ | ⟨r, -, h⟩ := adaptGain_cases C s <;> rw [h] <;> rfl
@[simp] theorem adaptGain_WP_PEND (C : Cfg α) (s : CoreState α) : (adaptGain C s).WP_PEND = s.WP_PEND := by
  obtain ⟨-, h⟩ | ⟨r, -, h⟩ := adaptGain_cases C s <;> rw [h] <;> rfl
@[simp] theorem adaptGain_GP_CUR (C : Cfg α) (s : CoreState α) : (adaptGain C s).GP_CUR = s.GP_CUR := by
  obtain ⟨-, h⟩ | ⟨r, -, h⟩ := adaptGain_cases C s <;> rw [h] <;> rfl
@[simp] theorem adaptGain_H (C : Cfg α) (s : CoreState α) : (adaptGain C s).H = s.H := by
  obtain ⟨-, h⟩ | ⟨r, -, h⟩ := adaptGain_cases C s <;> rw [h] <;> rfl
@[simp] theorem adaptGain_E (C : Cfg α) (s : CoreState α) : (adaptGain C s).E = s.E := by
  obtain ⟨-, h⟩ | ⟨r, -, h⟩ := adaptGain_cases C s <;> rw [h] <;> rfl
@[simp] theorem adaptGain_GSTATE (C : Cfg α) (s : CoreState α) : (adaptGain C s).GSTATE = s.GSTATE := by
  obtain ⟨-, h⟩ | ⟨r, -, h⟩ := adaptGain_cases C s <;> rw [h] <;> rfl
@[simp] theorem adaptGain_SYN_MEM (C : Cfg α) (s : CoreState α) : (adaptGain C s).SYN_MEM = s.SYN_MEM := by
  obtain ⟨-, h⟩ | ⟨r, -, h⟩ := adaptGain_cases C s <;> rw [h] <;> rfl
@[simp] theorem adaptGain_WF_ZMEM (C : Cfg α) (s : CoreState α) : (adaptGain C s).WF_ZMEM = s.WF_ZMEM := by
  obtain ⟨-, h⟩ | ⟨r, -, h⟩ := adaptGain_cases C s <;> rw [h] <;> rfl
@[simp] theorem adaptGain_WF_PMEM (C : Cfg α) (s : CoreState α) : (adaptGain C s).WF_PMEM = s.WF_PMEM := by
  obtain ⟨-, h⟩ | ⟨r, -, h⟩ := adaptGain_cases C s <;> rw [h] <;> rfl
@[simp] theorem adaptGain_PWF_ZMEM (C : Cfg α) (s : CoreState α) : (adaptGain C s).PWF_ZMEM = s.PWF_ZMEM := by
  obtain ⟨-, h⟩ | ⟨r, -, h⟩ := adaptGain_cases C s <;> rw [h] <;> rfl
@[simp] theorem adaptGain_PWF_PMEM (C : Cfg α) (s : CoreState α) : (adaptGain C s).PWF_PMEM = s.PWF_PMEM := by
  obtain ⟨-, h⟩ | ⟨r, -, h⟩ := adaptGain_cases C s <;> rw [h] <;> rfl
@[simp] theorem adaptGain_PF_A10 (C : Cfg α) (s : CoreState α) : (adaptGain C s).PF_A10 = s.PF_A10 := by
  obtain ⟨-, h⟩ | ⟨r, -, h⟩ := adaptGain_cases C s <;> rw [h] <;> rfl
@[simp] theorem adaptGain_PF_K1 (C : Cfg α) (s : CoreState α) : (adaptGain C s).PF_K1 = s.PF_K1 := by
  obtain ⟨-, h⟩ | ⟨r, -, h⟩ := adaptGain_cases C s <;> rw [h] <;> rfl
@[simp] theorem adaptGain_PF_STATE (C : Cfg α) (s : CoreState α) : (adaptGain C s).PF_STATE = s.PF_STATE := by
  obtain ⟨-, h⟩ | ⟨r, -, h⟩ := adaptGain_cases C s <;> rw [h] <;> rfl
@[simp] theorem adaptGain_QIN (C : Cfg α) (s : CoreState α) : (adaptGain C s).QIN = s.QIN := by
  obtain ⟨-, h⟩ | ⟨r, -, h⟩ := adaptGain_cases C s <;> rw [h] <;> rfl
@[simp] theorem adaptGain_QEXC (C : Cfg α) (s : CoreState α) : (adaptGain C s).QEXC = s.QEXC := by
  obtain ⟨-, h⟩ | ⟨r, -, h⟩ := adaptGain_cases C s <;> rw [h] <;> rfl
@[simp] theorem adaptGain_QSYN (C : Cfg α) (s : CoreState α) : (adaptGain C s).QSYN = s.QSYN := by
  obtain ⟨-, h⟩ | ⟨r, -, h⟩ := adaptGain_cases C s <;> rw [h] <;> rfl
@[simp] theorem adaptGain_QLG (C : Cfg α) (s : CoreState α) : (adaptGain C s).QLG = s.QLG := by
  obtain ⟨-, h⟩ | ⟨r, -, h⟩ := adaptGain_cases C s <;> rw [h] <;> rfl
@[simp] theorem adaptGain_SB_SYN (C : Cfg α) (s : CoreState α) : (adaptGain C s).SB_SYN = s.SB_SYN := by
  obtain ⟨-, h⟩ | ⟨r, -, h⟩ := adaptGain_cases C s <;> rw [h] <;> rfl
@[simp] theorem adaptGain_SB_W (C : Cfg α) (s : CoreState α) : (adaptGain C s).SB_W = s.SB_W := by
  obtain ⟨-, h⟩ | ⟨r, -, h⟩ := adaptGain_cases C s <;> rw [h] <;> rfl
@[simp] theorem adaptGain_REXP_SYN (C : Cfg α) (s : CoreState α) : (adaptGain C s).REXP_SYN = s.REXP_SYN := by
  obtain ⟨-, h⟩ | ⟨r, -, h⟩ := adaptGain_cases C s <;> rw [h] <;> rfl
@[simp] theorem adaptGain_REXP_W (C : Cfg α) (s : CoreState α) : (adaptGain C s).REXP_W = s.REXP_W := by
  obtain ⟨-, h⟩ | ⟨r, -, h⟩ := adaptGain_cases C s <;> rw [h] <;> rfl

@[simp] theorem adaptWgt_CTRL (C : Cfg α) (s : CoreState α) : (adaptWgt C s).CTRL = s.CTRL := by
  obtain ⟨-, h⟩ | ⟨r, -, h⟩ := adaptWgt_cases C s <;> rw [h] <;> rfl
@[simp] theorem adaptWgt_MODE (C : Cfg α) (s : CoreState α) : (adaptWgt C s).MODE = s.MODE := by
  obtain ⟨-, h⟩ | ⟨r, -, h⟩ := adaptWgt_cases C s <;> rw [h] <;> rfl
@[simp] theorem adaptWgt_PF_EN (C : Cfg α) (s : CoreState α) : (adaptWgt C s).PF_EN = s.PF_EN := by
  obtain ⟨-, h⟩ | ⟨r, -, h⟩ := adaptWgt_cases C s <;> rw [h] <;> rfl
@[simp] theorem adaptWgt_PHASE (C : Cfg α) (s : CoreState α) : (adaptWgt C s).PHASE = s.PHASE := by
  obtain ⟨-, h⟩ | ⟨r, -, h⟩ := adaptWgt_cases C s <;> rw [h] <;> rfl
@[simp] theorem adaptWgt_VX (C : Cfg α) (s : CoreState α) : (adaptWgt C s).VX = s.VX := by
  obtain ⟨-, h⟩ | ⟨r, -, h⟩ := adaptWgt_cases C s <;> rw [h] <;> rfl
@[simp] theorem adaptWgt_ERR (C : Cfg α) (s : CoreState α) : (adaptWgt C s).ERR = s.ERR := by
  obtain ⟨-, h⟩ | ⟨r, -, h⟩ := adaptWgt_cases C s <;> rw [h] <;> rfl
@[simp] theorem adaptWgt_A_RDY (C : Cfg α) (s : CoreState α) : (adaptWgt C s).A_RDY = s.A_RDY := by
  obtain ⟨-, h⟩ | ⟨r, -, h⟩ := adaptWgt_cases C s <;> rw [h] <;> rfl
@[simp] theorem adaptWgt_GP_RDY (C : Cfg α) (s : CoreState α) : (adaptWgt C s).GP_RDY = s.GP_RDY := by
  obtain ⟨-, h⟩ | ⟨r, -, h⟩ := adaptWgt_cases C s <;> rw [h] <;> rfl
@[simp] theorem adaptWgt_A_CUR (C : Cfg α) (s : CoreState α) : (adaptWgt C s).A_CUR = s.A_CUR := by
  obtain ⟨-, h⟩ | ⟨r, -, h⟩ := adaptWgt_cases C s <;> rw [h] <;> rfl
@[simp] theorem adaptWgt_A_PEND (C : Cfg α) (s : CoreState α) : (adaptWgt C s).A_PEND = s.A_PEND := by
  obtain ⟨-, h⟩ | ⟨r, -, h⟩ := adaptWgt_cases C s <;> rw [h] <;> rfl
@[simp] theorem adaptWgt_WZ_CUR (C : Cfg α) (s : CoreState α) : (adaptWgt C s).WZ_CUR = s.WZ_CUR := by
  obtain ⟨-, h⟩ | ⟨r, -, h⟩ := adaptWgt_cases C s <;> rw [h] <;> rfl
@[simp] theorem adaptWgt_WP_CUR (C : Cfg α) (s : CoreState α) : (adaptWgt C s).WP_CUR = s.WP_CUR := by
  obtain ⟨-, h⟩ | ⟨r, -, h⟩ := adaptWgt_cases C s <;> rw [h] <;> rfl
@[simp] theorem adaptWgt_GP_CUR (C : Cfg α) (s : CoreState α) : (adaptWgt C s).GP_CUR = s.GP_CUR := by
  obtain ⟨-, h⟩ | ⟨r, -, h⟩ := adaptWgt_cases C s <;> rw [h] <;> rfl
@[simp] theorem adaptWgt_GP_PEND (C : Cfg α) (s : CoreState α) : (adaptWgt C s).GP_PEND = s.GP_PEND := by
  obtain ⟨-, h⟩ | ⟨r, -, h⟩ := adaptWgt_cases C s <;> rw [h] <;> rfl
@[simp] theorem adaptWgt_H (C : Cfg α) (s : CoreState α) : (adaptWgt C s).H = s.H := by
  obtain ⟨-, h⟩ | ⟨r, -, h⟩ := adaptWgt_cases C s <;> rw [h] <;> rfl
@[simp] theorem adaptWgt_E (C : Cfg α) (s : CoreState α) : (adaptWgt C s).E = s.E := by
  obtain ⟨-, h⟩ | ⟨r, -, h⟩ := adaptWgt_cases C s <;> rw [h] <;> rfl
@[simp] theorem adaptWgt_GSTATE (C : Cfg α) (s : CoreState α) : (adaptWgt C s).GSTATE = s.GSTATE := by
  obtain ⟨-, h⟩ | ⟨r, -, h⟩ := adaptWgt_cases C s <;> rw [h] <;> rfl
@[simp] theorem adaptWgt_SYN_MEM (C : Cfg α) (s : CoreState α) : (adaptWgt C s).SYN_MEM = s.SYN_MEM := by
  obtain ⟨-, h⟩ | ⟨r, -, h⟩ := adaptWgt_cases C s <;> rw [h] <;> rfl
@[simp] theorem adaptWgt_WF_ZMEM (C : Cfg α) (s : CoreState α) : (adaptWgt C s).WF_ZMEM = s.WF_ZMEM := by
  obtain ⟨-, h⟩ | ⟨r, -, h⟩ := adaptWgt_cases C s <;> rw [h] <;> rfl
@[simp] theorem adaptWgt_WF_PMEM (C : Cfg α) (s : CoreState α) : (adaptWgt C s).WF_PMEM = s.WF_PMEM := by
  obtain ⟨-, h⟩ | ⟨r, -, h⟩ := adaptWgt_cases C s <;> rw [h] <;> rfl
@[simp] theorem adaptWgt_PWF_ZMEM (C : Cfg α) (s : CoreState α) : (adaptWgt C s).PWF_ZMEM = s.PWF_ZMEM := by
  obtain ⟨-, h⟩ | ⟨r, -, h⟩ := adaptWgt_cases C s <;> rw [h] <;> rfl
@[simp] theorem adaptWgt_PWF_PMEM (C : Cfg α) (s : CoreState α) : (adaptWgt C s).PWF_PMEM = s.PWF_PMEM := by
  obtain ⟨-, h⟩ | ⟨r, -, h⟩ := adaptWgt_cases C s <;> rw [h] <;> rfl
@[simp] theorem adaptWgt_PF_A10 (C : Cfg α) (s : CoreState α) : (adaptWgt C s).PF_A10 = s.PF_A10 := by
  obtain ⟨-, h⟩ | ⟨r, -, h⟩ := adaptWgt_cases C s <;> rw [h] <;> rfl
@[simp] theorem adaptWgt_PF_K1 (C : Cfg α) (s : CoreState α) : (adaptWgt C s).PF_K1 = s.PF_K1 := by
  obtain ⟨-, h⟩ | ⟨r, -, h⟩ := adaptWgt_cases C s <;> rw [h] <;> rfl
@[simp] theorem adaptWgt_PF_STATE (C : Cfg α) (s : CoreState α) : (adaptWgt C s).PF_STATE = s.PF_STATE := by
  obtain ⟨-, h⟩ | ⟨r, -, h⟩ := adaptWgt_cases C s <;> rw [h] <;> rfl
@[simp] theorem adaptWgt_QIN (C : Cfg α) (s : CoreState α) : (adaptWgt C s).QIN = s.QIN := by
  obtain ⟨-, h⟩ | ⟨r, -, h⟩ := adaptWgt_cases C s <;> rw [h] <;> rfl
@[simp] theorem adaptWgt_QEXC (C : Cfg α) (s : CoreState α) : (adaptWgt C s).QEXC = s.QEXC := by
  obtain ⟨-, h⟩ | ⟨r, -, h⟩ := adaptWgt_cases C s <;> rw [h] <;> rfl
@[simp] theorem adaptWgt_QSYN (C : Cfg α) (s : CoreState α) : (adaptWgt C s).QSYN = s.QSYN := by
  obtain ⟨-, h⟩ | ⟨r, -, h⟩ := adaptWgt_cases C s <;> rw [h] <;> rfl
@[simp] theorem adaptWgt_QLG (C : Cfg α) (s : CoreState α) : (adaptWgt C s).QLG = s.QLG := by
  obtain ⟨-, h⟩ | ⟨r, -, h⟩ := adaptWgt_cases C s <;> rw [h] <;> rfl
@[simp] theorem adaptWgt_SB_SYN (C : Cfg α) (s : CoreState α) : (adaptWgt C s).SB_SYN = s.SB_SYN := by
  obtain ⟨-, h⟩ | ⟨r, -, h⟩ := adaptWgt_cases C s <;> rw [h] <;> rfl
@[simp] theorem adaptWgt_SB_G (C : Cfg α) (s : CoreState α) : (adaptWgt C s).SB_G = s.SB_G := by
  obtain ⟨-, h⟩ | ⟨r, -, h⟩ := adaptWgt_cases C s <;> rw [h] <;> rfl
@[simp] theorem adaptWgt_REXP_SYN (C : Cfg α) (s : CoreState α) : (adaptWgt C s).REXP_SYN = s.REXP_SYN := by
  obtain ⟨-, h⟩ | ⟨r, -, h⟩ := adaptWgt_cases C s <;> rw [h] <;> rfl
@[simp] theorem adaptWgt_REXP_G (C : Cfg α) (s : CoreState α) : (adaptWgt C s).REXP_G = s.REXP_G := by
  obtain ⟨-, h⟩ | ⟨r, -, h⟩ := adaptWgt_cases C s <;> rw [h] <;> rfl

@[simp] theorem sched_CTRL (C : Cfg α) (s : CoreState α) : (sched C s).CTRL = s.CTRL := by unfold sched; split <;> simp
@[simp] theorem sched_MODE (C : Cfg α) (s : CoreState α) : (sched C s).MODE = s.MODE := by unfold sched; split <;> simp
@[simp] theorem sched_PF_EN (C : Cfg α) (s : CoreState α) : (sched C s).PF_EN = s.PF_EN := by unfold sched; split <;> simp
@[simp] theorem sched_PHASE (C : Cfg α) (s : CoreState α) : (sched C s).PHASE = s.PHASE := by unfold sched; split <;> simp
@[simp] theorem sched_VX (C : Cfg α) (s : CoreState α) : (sched C s).VX = s.VX := by unfold sched; split <;> simp
@[simp] theorem sched_ERR (C : Cfg α) (s : CoreState α) : (sched C s).ERR = s.ERR := by unfold sched; split <;> simp
@[simp] theorem sched_GSTATE (C : Cfg α) (s : CoreState α) : (sched C s).GSTATE = s.GSTATE := by unfold sched; split <;> simp
@[simp] theorem sched_SYN_MEM (C : Cfg α) (s : CoreState α) : (sched C s).SYN_MEM = s.SYN_MEM := by unfold sched; split <;> simp
@[simp] theorem sched_WF_ZMEM (C : Cfg α) (s : CoreState α) : (sched C s).WF_ZMEM = s.WF_ZMEM := by unfold sched; split <;> simp
@[simp] theorem sched_WF_PMEM (C : Cfg α) (s : CoreState α) : (sched C s).WF_PMEM = s.WF_PMEM := by unfold sched; split <;> simp
@[simp] theorem sched_PWF_ZMEM (C : Cfg α) (s : CoreState α) : (sched C s).PWF_ZMEM = s.PWF_ZMEM := by unfold sched; split <;> simp
@[simp] theorem sched_PWF_PMEM (C : Cfg α) (s : CoreState α) : (sched C s).PWF_PMEM = s.PWF_PMEM := by unfold sched; split <;> simp
@[simp] theorem sched_PF_STATE (C : Cfg α) (s : CoreState α) : (sched C s).PF_STATE = s.PF_STATE := by unfold sched; split <;> simp
@[simp] theorem sched_QIN (C : Cfg α) (s : CoreState α) : (sched C s).QIN = s.QIN := by unfold sched; split <;> simp
@[simp] theorem sched_QEXC (C : Cfg α) (s : CoreState α) : (sched C s).QEXC = s.QEXC := by unfold sched; split <;> simp
@[simp] theorem sched_QSYN (C : Cfg α) (s : CoreState α) : (sched C s).QSYN = s.QSYN := by unfold sched; split <;> simp
@[simp] theorem sched_QLG (C : Cfg α) (s : CoreState α) : (sched C s).QLG = s.QLG := by unfold sched; split <;> simp
end Sys2Proof.Machine
end

