-- ==== Sys2Proof/Laws/Rings.lean ====
section
/-! SUPPORT. The rings: what a read gives, what a write leaves, and that every operation over them keeps their full lengths. -/

namespace Sys2Proof.Machine

variable {α : Type}

@[simp] theorem ringRead_length (N : NumOps α) (s : CoreState α) (q : Ring) (len : Nat) :
    (ringRead N s q len).length = len := by simp [ringRead]

theorem rd_ringRead (N : NumOps α) (s : CoreState α) (q : Ring) {len n : Nat} (h : n < len) :
    rd N (ringRead N s q len) n = rd N (ringOf s q) (windowIndex q s.VX len n) := rd_tabulate N _ _ h

theorem writeSlot_eq (l : List α) (vx : Fin 12) (v : Vec5 α) :
    writeSlot l vx v = ((((l.set (5 * vx.val) v.v0).set (5 * vx.val + 1) v.v1).set (5 * vx.val + 2) v.v2).set
      (5 * vx.val + 3) v.v3).set (5 * vx.val + 4) v.v4 := rfl

@[simp] theorem writeSlot_length (l : List α) (vx : Fin 12) (v : Vec5 α) : (writeSlot l vx v).length = l.length := by
  simp [writeSlot_eq]

theorem rd_writeSlot_inside (N : NumOps α) (l : List α) (vx : Fin 12) (v : Vec5 α) (hl : l.length = 60) {k : Nat}
    (hk : k < 5) : rd N (writeSlot l vx v) (5 * vx.val + k) = v.get k := by
  have hv := vx.isLt
  have hk' : k = 0 ∨ k = 1 ∨ k = 2 ∨ k = 3 ∨ k = 4 := by omega
  simp only [writeSlot_eq, rd_set, List.length_set, hl]
  obtain rfl | rfl | rfl | rfl | rfl := hk'
  · rw [if_neg (by omega), if_neg (by omega), if_neg (by omega), if_neg (by omega), if_pos ⟨rfl, by omega⟩]; rfl
  · rw [if_neg (by omega), if_neg (by omega), if_neg (by omega), if_pos ⟨rfl, by omega⟩]; rfl
  · rw [if_neg (by omega), if_neg (by omega), if_pos ⟨rfl, by omega⟩]; rfl
  · rw [if_neg (by omega), if_pos ⟨rfl, by omega⟩]; rfl
  · rw [if_pos ⟨rfl, by omega⟩]; rfl

theorem rd_writeSlot_outside (N : NumOps α) (l : List α) (vx : Fin 12) (v : Vec5 α) {i : Nat}
    (h : i < 5 * vx.val ∨ 5 * vx.val + 5 ≤ i) : rd N (writeSlot l vx v) i = rd N l i := by
  simp only [writeSlot_eq, rd_set, List.length_set]
  rw [if_neg (by omega), if_neg (by omega), if_neg (by omega), if_neg (by omega), if_neg (by omega)]

theorem ringWrite_keeps_ringsWf (s : CoreState α) (q : SpeechRing) (v : Vec5 α) (h : s.ringsWf) :
    (ringWrite s q v).ringsWf := by
  obtain ⟨h1, h2, h3, h4⟩ := h
  cases q <;> exact ⟨by simp [ringWrite, h1], by simp [ringWrite, h2], by simp [ringWrite, h3], h4⟩

theorem coreUpdgain_keeps_ringsWf (C : Cfg α) (et : Vec5 α) (s : CoreState α) (h : s.ringsWf) :
    (coreUpdgain C et s).ringsWf := by
  obtain ⟨h1, h2, h3, h4⟩ := h
  exact ⟨h1, h2, h3, by simp [coreUpdgain, h4]⟩

theorem coreReset_ringsWf (C : Cfg α) : (coreReset C).ringsWf :=
  ⟨List.length_replicate, List.length_replicate, List.length_replicate, List.length_replicate⟩

theorem sessionStart_ringsWf (C : Cfg α) (mode : Mode) (pf : Bool) : (sessionStart C mode pf).ringsWf :=
  coreReset_ringsWf C

theorem reset_ringsWf : State.reset.toCoreState.ringsWf := coreReset_ringsWf cfg

end Sys2Proof.Machine
end

