-- ==== Sys2Proof/Laws/Controller.lean ====
section
/-! SUPPORT. The commands and the step: everything each can answer, and what a vector step leaves alone. -/

namespace Sys2Proof.Machine

variable {α : Type}

theorem vectorReady_iff (mode : Mode) (s : CoreState α) :
    vectorReady mode s = true ↔ s.CTRL = .running ∧ s.MODE = mode := by simp [vectorReady]

/-- The three ends of ENC_VEC: refused, waiting for samples, or a vector step. -/
theorem execEncVec_cases (s : State) :
    (vectorReady .enc s.toCoreState = false
        ∧ execEncVec s = .next (s.setCore (refuseCommand .badState s.toCoreState)))
      ∨ (vectorReady .enc s.toCoreState = true ∧ takeVector s.DIN_SMP = none
        ∧ execEncVec s = .next { s with CMD := encVecWord :: s.CMD })
      ∨ ∃ sv rest, vectorReady .enc s.toCoreState = true ∧ takeVector s.DIN_SMP = some (sv, rest)
        ∧ execEncVec s = .next { s with
            toCoreState := (encodeVector cfg sv s.toCoreState).core, DIN_SMP := rest
            DOUT_IDX := s.DOUT_IDX ++ indexBytes (encodeVector cfg sv s.toCoreState).idx } := by
  unfold execEncVec
  cases hr : vectorReady .enc s.toCoreState with
  | false => exact .inl ⟨rfl, rfl⟩
  | true =>
    cases ht : takeVector s.DIN_SMP with
    | none => exact .inr (.inl ⟨rfl, rfl, rfl⟩)
    | some p => exact .inr (.inr ⟨p.1, p.2, rfl, rfl, rfl⟩)

/-- The five ends of DEC_VEC. -/
theorem execDecVec_cases (s : State) :
    (vectorReady .dec s.toCoreState = false
        ∧ execDecVec s = .next (s.setCore (refuseCommand .badState s.toCoreState)))
      ∨ (vectorReady .dec s.toCoreState = true ∧ takeIndex s.DIN_IDX = .exhausted
        ∧ execDecVec s = .next (s.setCore { s.toCoreState with CTRL := .finished }))
      ∨ (vectorReady .dec s.toCoreState = true ∧ takeIndex s.DIN_IDX = .truncated
        ∧ execDecVec s = .next { s with toCoreState := raiseFatal .truncated s.toCoreState, DIN_IDX := [] })
      ∨ (∃ rest, vectorReady .dec s.toCoreState = true ∧ takeIndex s.DIN_IDX = .outOfRange rest
        ∧ execDecVec s = .next { s with toCoreState := raiseFatal .indexRange s.toCoreState, DIN_IDX := rest })
      ∨ ∃ idx rest, vectorReady .dec s.toCoreState = true ∧ takeIndex s.DIN_IDX = .legal idx rest
        ∧ execDecVec s = .next { s with
            toCoreState := (decodeVector cfg idx s.toCoreState).core, DIN_IDX := rest
            DOUT_SMP := s.DOUT_SMP ++ (decodeVector cfg idx s.toCoreState).out.toList } := by
  unfold execDecVec
  cases hr : vectorReady .dec s.toCoreState with
  | false => exact .inl ⟨rfl, rfl⟩
  | true =>
    cases ht : takeIndex s.DIN_IDX with
    | exhausted => exact .inr (.inl ⟨rfl, rfl, rfl⟩)
    | truncated => exact .inr (.inr (.inl ⟨rfl, rfl, rfl⟩))
    | outOfRange rest => exact .inr (.inr (.inr (.inl ⟨rest, rfl, rfl, rfl⟩)))
    | legal idx rest => exact .inr (.inr (.inr (.inr ⟨idx, rest, rfl, rfl, rfl⟩)))

/-- Both ends of FINISH. -/
theorem execFinish_cases (s : State) :
    (s.CTRL = .running ∧ execFinish s = .next (s.setCore { s.toCoreState with CTRL := .finished }))
      ∨ (s.CTRL ≠ .running ∧ execFinish s = .next (s.setCore (refuseCommand .badState s.toCoreState))) := by
  unfold execFinish
  split
  · exact .inl ⟨by assumption, rfl⟩
  · exact .inr ⟨by assumption, rfl⟩

/-- PCM_IN writes one latch. The value is named, so that a comparison of states need not compute it. -/
theorem execPcmIn_cases (s : State) :
    ∃ x, x = pcmIn cfg.num s.loc.p.toInt ∧ execPcmIn s = .next (s.setLoc { s.loc with x := x }) := ⟨_, rfl, rfl⟩

/-- PCM_OUT writes one latch. -/
theorem execPcmOut_cases (s : State) :
    ∃ p, p = BitVec.ofInt 16 (pcmOut cfg.num s.loc.x) ∧ execPcmOut s = .next (s.setLoc { s.loc with p := p }) := ⟨_, rfl, rfl⟩

/-- Both things a word can do. -/
theorem runWord_cases (p : CodeWord) (s : State) :
    (∃ i, decode p = .ok i ∧ runWord p s = exec i s) ∨ ∃ r, decode p = .error r ∧ runWord p s = rejectWord r s := by
  unfold runWord
  cases hd : decode p with
  | ok i => exact .inl ⟨i, rfl, rfl⟩
  | error r => exact .inr ⟨r, rfl, rfl⟩

/-- What a word that names no instruction does: a refused command, a fatal condition where DEC_VEC would be accepted, or a
refusal by name. -/
theorem rejectWord_cases (r : Reject) (s : State) :
    (r = .illegalCommand ∧ rejectWord r s = .next (s.setCore (refuseCommand .illegalCmd s.toCoreState)))
      ∨ (r = .indexRange ∧ vectorReady .dec s.toCoreState = true
        ∧ rejectWord r s = .next (s.setCore (raiseFatal .indexRange s.toCoreState)))
      ∨ (r = .indexRange ∧ vectorReady .dec s.toCoreState = false
        ∧ rejectWord r s = .next (s.setCore (refuseCommand .badState s.toCoreState)))
      ∨ (r = .unassigned ∧ rejectWord r s = .refused .unassignedMicroOp) := by
  cases r with
  | illegalCommand => exact .inl ⟨rfl, rfl⟩
  | indexRange =>
    cases hv : vectorReady .dec s.toCoreState with
    | true => exact .inr (.inl ⟨rfl, rfl, by simp [rejectWord, hv]⟩)
    | false => exact .inr (.inr (.inl ⟨rfl, rfl, by simp [rejectWord, hv]⟩))
  | unassigned => exact .inr (.inr (.inr ⟨rfl, rfl⟩))

/-- The three things a step can do: run the word on the bench, hold all state, run the next command word. -/
theorem step_cases (s : State) :
    (∃ p, s.bench = some p ∧ step s = runWord p { s with bench := none })
      ∨ (s.bench = none ∧ s.CMD = [] ∧ step s = .next s)
      ∨ ∃ w rest, s.bench = none ∧ s.CMD = w :: rest ∧ step s = runWord (.cw w) { s with CMD := rest } := by
  unfold step
  cases hb : s.bench with
  | some p => exact .inl ⟨p, rfl, rfl⟩
  | none =>
    cases hc : s.CMD with
    | nil => exact .inr (.inl ⟨rfl, rfl, rfl⟩)
    | cons w rest => exact .inr (.inr ⟨w, rest, rfl, rfl, by simp⟩)

/-! ## What a vector step leaves -/

theorem encodeVector_counters (C : Cfg α) (sv : Vec5 α) (s : CoreState α) :
    (encodeVector C sv s).core.VX = nextSlot s.VX ∧ (encodeVector C sv s).core.PHASE = nextPhase s.PHASE := by
  simp [encodeVector]

theorem encodeVector_control (C : Cfg α) (sv : Vec5 α) (s : CoreState α) :
    (encodeVector C sv s).core.CTRL = s.CTRL ∧ (encodeVector C sv s).core.MODE = s.MODE
      ∧ (encodeVector C sv s).core.PF_EN = s.PF_EN ∧ (encodeVector C sv s).core.ERR = s.ERR
      ∧ (encodeVector C sv s).core.PF_STATE = s.PF_STATE := by
  simp [encodeVector]

theorem decodeVector_counters (C : Cfg α) (idx : BitVec 10) (s : CoreState α) :
    (decodeVector C idx s).core.VX = nextSlot s.VX ∧ (decodeVector C idx s).core.PHASE = nextPhase s.PHASE := by
  simp only [decodeVector]
  split <;> simp

theorem decodeVector_control (C : Cfg α) (idx : BitVec 10) (s : CoreState α) :
    (decodeVector C idx s).core.CTRL = s.CTRL ∧ (decodeVector C idx s).core.MODE = s.MODE
      ∧ (decodeVector C idx s).core.PF_EN = s.PF_EN ∧ (decodeVector C idx s).core.ERR = s.ERR := by
  simp only [decodeVector]
  split <;> simp

end Sys2Proof.Machine
end

