-- ==== Sys2Proof/Laws/Filters.lean ====
section
/-! SUPPORT. The filters: what five samples of one keep, and the lengths of what they leave. -/

namespace Sys2Proof.Machine

variable {α σ β : Type}

/-- What every sample keeps, five samples keep. -/
theorem scan5_keeps (P : σ → Prop) (f : σ → α → σ × β) (h : ∀ s a, P s → P (f s a).1) (s : σ) (v : Vec5 α) (hs : P s) :
    P (scan5 f s v).1 := h _ _ (h _ _ (h _ _ (h _ _ (h _ _ hs))))

theorem scan5_fst (f : σ → α → σ × β) (s : σ) (v : Vec5 α) :
    (scan5 f s v).1 = (f (f (f (f (f s v.v0).1 v.v1).1 v.v2).1 v.v3).1 v.v4).1 := rfl

@[simp] theorem weightStep_z_length (N : NumOps α) (wz wp : List α) (m : WMem α) (x : α) :
    (weightStep N wz wp m x).1.z.length = m.z.length := push_length _ _

@[simp] theorem weightStep_p_length (N : NumOps α) (wz wp : List α) (m : WMem α) (x : α) :
    (weightStep N wz wp m x).1.p.length = m.p.length := push_length _ _

@[simp] theorem cascadeStep_syn_length (N : NumOps α) (A wz wp : List α) (m : CMem α) (x : α) :
    (cascadeStep N A wz wp m x).1.syn.length = m.syn.length := push_length _ _

@[simp] theorem cascadeStep_z_length (N : NumOps α) (A wz wp : List α) (m : CMem α) (x : α) :
    (cascadeStep N A wz wp m x).1.w.z.length = m.w.z.length := push_length _ _

@[simp] theorem cascadeStep_p_length (N : NumOps α) (A wz wp : List α) (m : CMem α) (x : α) :
    (cascadeStep N A wz wp m x).1.w.p.length = m.w.p.length := push_length _ _

@[simp] theorem clampNewest_length (N : NumOps α) (lo hi : α) (syn : List α) :
    (clampNewest N lo hi syn).length = syn.length := by
  simp [clampNewest]; omega

@[simp] theorem pwfilt_z_length (N : NumOps α) (wz wp : List α) (m : WMem α) (v : Vec5 α) :
    (pwfilt N wz wp m v).1.z.length = m.z.length := by simp [pwfilt, scan5_fst]

@[simp] theorem pwfilt_p_length (N : NumOps α) (wz wp : List α) (m : WMem α) (v : Vec5 α) :
    (pwfilt N wz wp m v).1.p.length = m.p.length := by simp [pwfilt, scan5_fst]

@[simp] theorem memupd_syn_length (N : NumOps α) (A wz wp : List α) (lo hi : α) (m : CMem α) (et : Vec5 α) :
    (memupd N A wz wp lo hi m et).1.syn.length = m.syn.length := by simp [memupd, scan5_fst]

@[simp] theorem memupd_z_length (N : NumOps α) (A wz wp : List α) (lo hi : α) (m : CMem α) (et : Vec5 α) :
    (memupd N A wz wp lo hi m et).1.w.z.length = m.w.z.length := by simp [memupd, scan5_fst]

@[simp] theorem memupd_p_length (N : NumOps α) (A wz wp : List α) (lo hi : α) (m : CMem α) (et : Vec5 α) :
    (memupd N A wz wp lo hi m et).1.w.p.length = m.w.p.length := by simp [memupd, scan5_fst]

@[simp] theorem shapen_length (N : NumOps α) (H : Vec5 α) (shape : Nat → Nat → α) : (shapen N H shape).length = 128 :=
  tabulate_length _ _

theorem rd_shapen (N : NumOps α) (H : Vec5 α) (shape : Nat → Nat → α) {j : Nat} (h : j < 128) :
    rd N (shapen N H shape) j = shapeEnergy N H (shape j) := rd_tabulate N _ _ h

end Sys2Proof.Machine
end

