-- ==== Sys2Proof/Laws/PerInstr.lean ====
section
/-! SUPPORT. Per instruction: a well-formed instruction's encoded bits match its own row of spec/opcode_table.json. -/

namespace Sys2Proof.Laws

/-- `mask` and `match` of the instruction's row of spec/opcode_table.json (30_encoding.md R98, R99, R100). -/
def rowOf (i : Instr) : Nat × Nat :=
  match i with
  | .nop => (0xFFFF, 0x0000)
  | .initEnc => (0xFFFF, 0x1000)
  | .initDec _ => (0xFFFE, 0x2000)
  | .encVec => (0xFFFF, 0x3000)
  | .decVec => (0xFFFF, 0x4000)
  | .finish => (0xFFFF, 0x5000)
  | .index _ _ => (0xFC00, 0x0000)
  | .hwin => (0xFF, 0x01)
  | .levdur => (0xFF, 0x02)
  | .levdurSyn => (0xFF, 0x03)
  | .bwexp => (0xFF, 0x04)
  | .adaptSyn => (0xFF, 0x10)
  | .adaptGain => (0xFF, 0x11)
  | .adaptWgt => (0xFF, 0x12)
  | .commitSyn => (0xFF, 0x13)
  | .commitGain => (0xFF, 0x14)
  | .commitWgt => (0xFF, 0x15)
  | .sched => (0xFF, 0x16)
  | .predgain => (0xFF, 0x20)
  | .updgain => (0xFF, 0x21)
  | .pwfilt => (0xFF, 0x30)
  | .zresp => (0xFF, 0x31)
  | .memupd => (0xFF, 0x32)
  | .iresp => (0xFF, 0x33)
  | .shapen => (0xFF, 0x34)
  | .trevconv => (0xFF, 0x40)
  | .vqsearch => (0xFF, 0x41)
  | .excite => (0xFF, 0x42)
  | .ringrd => (0xFF, 0x50)
  | .ringwr => (0xFF, 0x51)
  | .postfilt => (0xFF, 0x60)
  | .pcmIn => (0xFF, 0x70)
  | .pcmOut => (0xFF, 0x71)

/-- The bits of a well-formed instruction, masked, are its row's match. -/
def TableRow.Statement (i : Instr) : Prop := i.WellFormed → (encode i).bits &&& (rowOf i).1 = (rowOf i).2

theorem TableRow.nop : TableRow.Statement .nop := fun _ => by decide

theorem TableRow.initEnc : TableRow.Statement .initEnc := fun _ => by decide

theorem TableRow.initDec (pf : Bool) : TableRow.Statement (.initDec pf) := by
  intro _; cases pf <;> decide

theorem TableRow.encVec : TableRow.Statement .encVec := fun _ => by decide

theorem TableRow.decVec : TableRow.Statement .decVec := fun _ => by decide

theorem TableRow.finish : TableRow.Statement .finish := fun _ => by decide

theorem TableRow.index (shape gain : Nat) : TableRow.Statement (.index shape gain) := by
  intro h
  have hb : shape < 128 ∧ gain < 8 := by
    simp only [Instr.WellFormed, Instr.illFormed] at h
    split at h
    · cases h
    · split at h
      · cases h
      · omega
  have all : ∀ (a : Fin 128) (b : Fin 8), (encode (.index a.val b.val)).bits &&& 0xFC00 = 0x0000 := by decide +kernel
  exact all ⟨shape, hb.1⟩ ⟨gain, hb.2⟩

theorem TableRow.hwin : TableRow.Statement .hwin := fun _ => by decide

theorem TableRow.levdur : TableRow.Statement .levdur := fun _ => by decide

theorem TableRow.levdurSyn : TableRow.Statement .levdurSyn := fun _ => by decide

theorem TableRow.bwexp : TableRow.Statement .bwexp := fun _ => by decide

theorem TableRow.adaptSyn : TableRow.Statement .adaptSyn := fun _ => by decide

theorem TableRow.adaptGain : TableRow.Statement .adaptGain := fun _ => by decide

theorem TableRow.adaptWgt : TableRow.Statement .adaptWgt := fun _ => by decide

theorem TableRow.commitSyn : TableRow.Statement .commitSyn := fun _ => by decide

theorem TableRow.commitGain : TableRow.Statement .commitGain := fun _ => by decide

theorem TableRow.commitWgt : TableRow.Statement .commitWgt := fun _ => by decide

theorem TableRow.sched : TableRow.Statement .sched := fun _ => by decide

theorem TableRow.predgain : TableRow.Statement .predgain := fun _ => by decide

theorem TableRow.updgain : TableRow.Statement .updgain := fun _ => by decide

theorem TableRow.pwfilt : TableRow.Statement .pwfilt := fun _ => by decide

theorem TableRow.zresp : TableRow.Statement .zresp := fun _ => by decide

theorem TableRow.memupd : TableRow.Statement .memupd := fun _ => by decide

theorem TableRow.iresp : TableRow.Statement .iresp := fun _ => by decide

theorem TableRow.shapen : TableRow.Statement .shapen := fun _ => by decide

theorem TableRow.trevconv : TableRow.Statement .trevconv := fun _ => by decide

theorem TableRow.vqsearch : TableRow.Statement .vqsearch := fun _ => by decide

theorem TableRow.excite : TableRow.Statement .excite := fun _ => by decide

theorem TableRow.ringrd : TableRow.Statement .ringrd := fun _ => by decide

theorem TableRow.ringwr : TableRow.Statement .ringwr := fun _ => by decide

theorem TableRow.postfilt : TableRow.Statement .postfilt := fun _ => by decide

theorem TableRow.pcmIn : TableRow.Statement .pcmIn := fun _ => by decide

theorem TableRow.pcmOut : TableRow.Statement .pcmOut := fun _ => by decide

end Sys2Proof.Laws
end

