-- ==== Sys2Proof/Laws/Postfilter.lean ====
section
/-! SUPPORT. The postfilter: its period stays in `[PMIN, PMAX]`, its memories keep their lengths, and the parts of what a
step answers. -/

namespace Sys2Proof.Machine

variable {α : Type}

/-- The best lag is one of the candidates. -/
theorem bestLag_mem (N : NumOps α) (prefers : Nat → Nat → Bool) (value : Nat → α) (first : Nat) (rest : List Nat) :
    bestLag N prefers value first rest = first ∨ bestLag N prefers value first rest ∈ rest := by
  unfold bestLag
  induction rest generalizing first with
  | nil => exact .inl rfl
  | cons l ls ih =>
    rw [List.foldl_cons]
    rcases ih (betterLag N prefers value first l) with h | h
    · rw [h]
      unfold betterLag
      split
      · exact .inr List.mem_cons_self
      · exact .inl rfl
    · exact .inr (List.mem_cons_of_mem _ h)

theorem clampPeriod_range (p : Nat) : 20 ≤ clampPeriod p ∧ clampPeriod p ≤ 140 := by
  unfold clampPeriod pitchMin pitchMax; omega

theorem periodsNear_range {p range q : Nat} (h : q ∈ periodsNear p range) : 20 ≤ q ∧ q ≤ 140 := by
  have h' := List.mem_range'_1.mp (List.mem_filter.mp h).1
  simp only [pitchMin, pitchMax] at h'
  omega

theorem periodNear_range (N : NumOps α) (P : PfOpen α) (r : Nat → α) (range : Nat) {p : Nat} (h : 20 ≤ p ∧ p ≤ 140) :
    20 ≤ periodNear N P r range p ∧ periodNear N P r range p ≤ 140 := by
  unfold periodNear
  rcases bestLag_mem N P.prefers (autocorrelation N P r P.fineStart P.fineWindow) p (periodsNear p range) with e | m
  · rw [e]; exact h
  · exact periodsNear_range m

theorem coarsePeriod_range (N : NumOps α) (P : PfOpen α) (r : Nat → α) :
    20 ≤ coarsePeriod N P r ∧ coarsePeriod N P r ≤ 140 := by
  unfold coarsePeriod
  rcases bestLag_mem N P.prefers (autocorrelation N P (decimate P r) P.coarseStart P.coarseWindow) (pitchMin / decimation)
    (List.range' (pitchMin / decimation) (pitchMax / decimation - pitchMin / decimation + 1)) with e | m
  · rw [e]; decide
  · have h := List.mem_range'_1.mp m
    simp only [pitchMin, pitchMax, decimation] at h ⊢
    omega

theorem trackPitch_range (N : NumOps α) (P : PfOpen α) (r : Nat → α) (previous : Nat) :
    20 ≤ trackPitch N P r previous ∧ trackPitch N P r previous ≤ 140 := by
  simp only [trackPitch]
  split
  · exact periodNear_range N P r _ (clampPeriod_range previous)
  · exact periodNear_range N P r _ (coarsePeriod_range N P r)

/-- What the least number found says. -/
theorem leastFrom_some {p : Nat → Bool} {count q m : Nat} (h : leastFrom p count q = some m) :
    q ≤ m ∧ m < q + count ∧ p m = true ∧ ∀ j, q ≤ j → j < m → p j = false := by
  induction count generalizing q with
  | zero => cases h
  | succ count ih =>
    unfold leastFrom at h
    split at h
    · simp only [Option.some.injEq] at h
      subst h
      exact ⟨by omega, by omega, by assumption, fun j _ _ => by omega⟩
    · rename_i hq
      obtain ⟨h1, h2, h3, h4⟩ := ih h
      refine ⟨by omega, by omega, h3, fun j hj hm => ?_⟩
      rcases Nat.eq_or_lt_of_le hj with rfl | hj
      · simpa using hq
      · exact h4 j hj hm

/-- The least number in range is found. -/
theorem leastFrom_eq {p : Nat → Bool} {count q m : Nat} (hq : q ≤ m) (hm : m < q + count) (hp : p m = true)
    (least : ∀ j, q ≤ j → j < m → p j = false) : leastFrom p count q = some m := by
  induction count generalizing q with
  | zero => omega
  | succ count ih =>
    unfold leastFrom
    rcases Nat.eq_or_lt_of_le hq with rfl | hlt
    · rw [if_pos hp]
    · rw [if_neg (by simp [least q (Nat.le_refl _) hlt])]
      exact ih (by omega) (by omega) (fun j h1 h2 => least j (by omega) h2)

/-- What a known period is: in `[PMIN, PMAX]`, and the least number of samples after which the residual repeats. -/
theorem knownPeriod_some {N : NumOps α} {P : PfOpen α} {r : Nat → α} {p : Nat} (h : knownPeriod N P r = some p) :
    20 ≤ p ∧ p ≤ 140 ∧ repeatsAfter N P r p = true ∧ ∀ q, 1 ≤ q → q < p → repeatsAfter N P r q = false := by
  simp only [knownPeriod, Option.filter_eq_some_iff, pitchMin, pitchMax] at h
  obtain ⟨_, h2, h3, h4⟩ := leastFrom_some h.1
  exact ⟨of_decide_eq_true h.2, by omega, h3, h4⟩

/-- Both things an extraction can answer: the period tracked, or the known period where the one tracked is not within DECIM
of it. -/
theorem extractPitch_cases (N : NumOps α) (P : PfOpen α) (r : Nat → α) (previous : Nat) :
    (extractPitch N P r previous = trackPitch N P r previous
        ∧ ∀ p, knownPeriod N P r = some p → withinDecim p (trackPitch N P r previous) = true)
      ∨ ∃ p, knownPeriod N P r = some p ∧ withinDecim p (trackPitch N P r previous) = false
        ∧ extractPitch N P r previous = p := by
  unfold extractPitch
  cases hk : knownPeriod N P r with
  | none => exact .inl ⟨rfl, fun p h => by cases h⟩
  | some p =>
    cases hw : withinDecim p (trackPitch N P r previous) with
    | true => exact .inl ⟨by simp [hw], fun q h => by cases h; exact hw⟩
    | false => exact .inr ⟨p, rfl, hw, by simp [hw]⟩

/-- Whatever the residual and the previous period, the period extracted is in `[PMIN, PMAX]` (46_postfilter.md R235). -/
theorem extractPitch_range (N : NumOps α) (P : PfOpen α) (r : Nat → α) (previous : Nat) :
    20 ≤ extractPitch N P r previous ∧ extractPitch N P r previous ≤ 140 := by
  rcases extractPitch_cases N P r previous with ⟨e, _⟩ | ⟨p, hp, _, e⟩
  · rw [e]; exact trackPitch_range N P r previous
  · rw [e]; exact ⟨(knownPeriod_some hp).1, (knownPeriod_some hp).2.1⟩

/-- On a residual with a known period the period extracted is within DECIM of it (46_postfilter.md R239). -/
theorem extractPitch_known {N : NumOps α} {P : PfOpen α} {r : Nat → α} {p : Nat} (h : knownPeriod N P r = some p)
    (previous : Nat) : extractPitch N P r previous ≤ p + 4 ∧ p ≤ extractPitch N P r previous + 4 := by
  rcases extractPitch_cases N P r previous with ⟨e, hw⟩ | ⟨q, hq, _, e⟩
  · have := hw p h
    simp only [withinDecim, decimation, Bool.and_eq_true] at this
    rw [e]; exact ⟨of_decide_eq_true this.1, of_decide_eq_true this.2⟩
  · rw [h, Option.some.injEq] at hq
    omega

/-- A residual that repeats after `p` samples at every age repeats after every multiple of `p`. -/
theorem repeats_multiple {N : NumOps α} {r : Nat → α} {p : Nat}
    (trans : ∀ a b c, N.eq a b = true → N.eq b c = true → N.eq a c = true)
    (h : ∀ n, N.eq (r n) (r (n + p)) = true) (n k : Nat) : N.eq (r n) (r (n + (k + 1) * p)) = true := by
  induction k with
  | zero => simpa using h n
  | succ k ih =>
    have := trans _ _ _ ih (h _)
    rwa [show n + (k + 1) * p + p = n + (k + 1 + 1) * p by ring] at this

/-- A residual that repeats after `p` samples at every age, and after no fewer, has the known period `p`, in every NUM whose
equality is symmetric and transitive. -/
theorem knownPeriod_of_periodic {N : NumOps α} (P : PfOpen α) {r : Nat → α} {p : Nat}
    (symm : ∀ a b, N.eq a b = true → N.eq b a = true)
    (trans : ∀ a b c, N.eq a b = true → N.eq b c = true → N.eq a c = true)
    (lo : 20 ≤ p) (hi : p ≤ 140) (h : ∀ n, N.eq (r n) (r (n + p)) = true)
    (least : ∀ q, 1 ≤ q → q < p → ∃ n, N.eq (r n) (r (n + q)) = false) : knownPeriod N P r = some p := by
  have refl : ∀ n, N.eq (r n) (r n) = true := fun n => trans _ _ _ (h n) (symm _ _ (h n))
  have mod : ∀ n j, N.eq (r (n % p + j)) (r (n + j)) = true := by
    intro n j
    rcases Nat.eq_zero_or_pos (n / p) with h0 | h0
    · rw [show n % p = n by have := Nat.mod_add_div n p; rw [h0] at this; simpa using this]
      exact refl _
    · obtain ⟨k, hk⟩ : ∃ k, n / p = k + 1 := ⟨n / p - 1, by omega⟩
      have := repeats_multiple trans h (n % p + j) k
      rwa [show n % p + j + (k + 1) * p = n + j by
        have := Nat.mod_add_div n p; rw [hk, Nat.mul_comm] at this; omega] at this
  have found : leastFrom (repeatsAfter N P r) pitchMax 1 = some p := by
    refine leastFrom_eq (by omega) (by unfold pitchMax; omega) ?_ ?_
    · exact List.all_eq_true.mpr (fun n _ => h n)
    · intro q h1 hq
      obtain ⟨n, hn⟩ := least q h1 hq
      cases hr : repeatsAfter N P r q with
      | false => rfl
      | true =>
        have small : n % p < max pitchMax P.periodicSpan := by
          have := Nat.mod_lt n (show 0 < p by omega)
          unfold pitchMax
          omega
        have := trans _ _ _ (symm _ _ (mod n 0)) (List.all_eq_true.mp hr _ (List.mem_range.mpr small))
        simp only [Nat.add_zero] at this
        rw [trans _ _ _ this (mod n q)] at hn
        cases hn
  unfold knownPeriod pitchMin
  rw [found]
  simp [lo]

@[simp] theorem postfilterStep_z_length (N : NumOps α) (P : PfOpen α) (st : PfState α) (sq : Vec5 α) (qsyn qexc : List α)
    (vx : Fin 12) (a10 : List α) (k1 : α) : (postfilterStep N P st sq qsyn qexc vx a10 k1).1.z.length = st.z.length := by
  simp [postfilterStep, shortTermFilter]

@[simp] theorem postfilterStep_p_length (N : NumOps α) (P : PfOpen α) (st : PfState α) (sq : Vec5 α) (qsyn qexc : List α)
    (vx : Fin 12) (a10 : List α) (k1 : α) : (postfilterStep N P st sq qsyn qexc vx a10 k1).1.p.length = st.p.length := by
  simp [postfilterStep, shortTermFilter]

theorem postfilterStep_period (N : NumOps α) (P : PfOpen α) (st : PfState α) (sq : Vec5 α) (qsyn qexc : List α)
    (vx : Fin 12) (a10 : List α) (k1 : α) :
    20 ≤ (postfilterStep N P st sq qsyn qexc vx a10 k1).1.period
      ∧ (postfilterStep N P st sq qsyn qexc vx a10 k1).1.period ≤ 140 := extractPitch_range N P _ _

theorem pfInit_period : 20 ≤ pfInit.period ∧ pfInit.period ≤ 140 := clampPeriod_range _

@[simp] theorem pfInit_z_length : pfInit.z.length = 10 := tabulate_length _ _

@[simp] theorem pfInit_p_length : pfInit.p.length = 10 := tabulate_length _ _

end Sys2Proof.Machine
end

