-- ==== Sys2Proof/Tests/Toy.lean ====
section
/-! SUPPORT. The toy configuration TOY of 95_test_vectors.md section 0, over the exact rationals, so that the spec's own
derived vectors can be checked. None of it is a claim about the hardware. -/

namespace Sys2Proof.Tests

open Sys2Proof.Machine

/-- The decimal exponent of a positive rational, by bounded search. -/
def toyExponent (x : ℚ) : Nat → Int
  | 0 => 0
  | fuel + 1 => if 10 ≤ x then toyExponent (x / 10) fuel + 1 else if x < 1 then toyExponent (x * 10) fuel - 1 else 0

/-- `L10`: the exponent plus `(leading digit − 1)/9`. -/
def toyLog10 (x : ℚ) : ℚ :=
  let n := toyExponent x 40
  let y := x / (10 : ℚ) ^ n
  n + ((y.num / y.den : Int) - 1 : ℚ) / 9

/-- `P10`: piecewise linear between the powers of ten. -/
def toyPow10 (y : ℚ) : ℚ :=
  let n : Int := y.num / y.den
  (10 : ℚ) ^ n * (1 + 9 * (y - n))

/-- Nearest integer, ties to even. -/
def toyRound (x : ℚ) : Int :=
  let fl : Int := x.num / x.den
  let r := x - fl
  if 1 / 2 < r then fl + 1 else if r < 1 / 2 then fl else if fl % 2 = 0 then fl else fl + 1

/-- Exact rationals with the toy functions. -/
def toyNum : NumOps ℚ := exactNum ℚ toyLog10 toyPow10 toyRound

/-- `MAG[j >> 5][k]`. -/
def toyMagnitude (r k : Nat) : ℚ :=
  (([[1, 1, 1, 1, 1], [2, 1, 0, 0, 0], [0, 0, 1, 2, 3], [3, 0, 2, 0, 1]] : List (List ℚ)).getD r []).getD k 0

/-- TOY. -/
def toyCfg : Cfg ℚ where
  num := toyNum
  nonr := 5
  nonrw := 5
  nonrlg := 2
  wnSyn := fun n => (n + 1) / 75
  wnW := fun n => (n + 1) / 35
  wnG := fun n => (n + 1) / 16
  decSyn := 1 / 2
  decW := 1 / 2
  decG := 3 / 4
  wncf := 257 / 256
  bwSyn := fun i => (3 / 4) ^ i
  bwWz := fun i => (9 / 10) ^ i
  bwWp := fun i => (6 / 10) ^ i
  bwG := fun i => (29 / 32) ^ i
  goff := 20
  msFloor := 1
  cbShape := fun j k => toyMagnitude (j / 32) k * (if j.testBit k then 1 else -1)
  cbGain := fun g => ([1 / 2, 1, 2, 4, -1 / 2, -1, -2, -4] : List ℚ).getD g 0
  stateMin := -4095
  stateMax := 4095
  phaseInit := .p1
  aInit := 1 :: List.replicate 50 0
  wzInit := 1 :: List.replicate 10 0
  wpInit := 1 :: List.replicate 10 0
  gpInit := 1 :: -1 :: List.replicate 9 0
  pfInit := ⟨20, [], [], 0, 0⟩
  pfStep := fun st sq _ _ _ _ _ => ({ st with history := st.history + 1 }, map5 (fun x => x / 2) sq)

/-- Open parts of the postfilter chosen for the tests: the residual numbers its ages, windows of 8 and 40, jumps of more than
six samples rejected unless the new tap is twice the held one. -/
def toyOpen : PfOpen ℚ where
  residual := fun _ _ age => age
  history := fun st _ => st.history
  prefilter := fun r => r
  coarseStart := 0
  coarseWindow := 8
  fineStart := 0
  fineWindow := 40
  normalise := fun c _ e => if e = 0 then 0 else c * c / e
  prefers := fun _ _ => false
  refineRange := 3
  jump := fun previous new => decide (previous + 6 < new ∨ new + 6 < previous)
  holdRange := 2
  normalizedTap := fun r p => r p
  dominates := fun new held => decide (2 * held < new)
  periodicSpan := 0
  combInput := fun sq _ => sq
  combTap := fun _ _ => 1 / 2
  combScale := fun tap => 1 / (1 + tap)
  zeroFactor := 1 / 2
  poleFactor := 1 / 4
  tiltFactor := 1 / 2
  byEnergy := true
  zeroGain := fun _ => 1
  smoothing := 1 / 2

end Sys2Proof.Tests
end

