-- ==== Sys2Proof/Tests/Slice0.lean ====
section
/-! SUPPORT. Tests: the decoder on words written out from the tables, the spec's own derived vectors (95_test_vectors.md T and P,
and the worked examples of the rules), binary32 on numbers written out by hand, one step per instruction, and a witness for
the hypotheses of each statement. -/

namespace Sys2Proof.Tests

open Sys2Proof.Machine

-- One theorem at a time: the kernel evaluations below would otherwise wait for one another in many threads at once.
set_option Elab.async false

/-! ## WellFormed -/

theorem test_shape_128_is_ill_formed : (Instr.index 128 0).illFormed = some .shapeRange := by decide
theorem test_gain_8_is_ill_formed : (Instr.index 0 8).illFormed = some .gainRange := by decide
theorem test_index_127_7_is_well_formed : (Instr.index 127 7).WellFormed := by decide

/-! ## Decoding: words written out from 30_encoding.md R98, R94, R100 (T1, T2) -/

theorem test_decode_commands :
    decode (.cw 0b0000000000000000#16) = .ok .nop ∧ decode (.cw 0b0001000000000000#16) = .ok .initEnc
      ∧ decode (.cw 0b0010000000000000#16) = .ok (.initDec false) ∧ decode (.cw 0b0010000000000001#16) = .ok (.initDec true)
      ∧ decode (.cw 0b0011000000000000#16) = .ok .encVec ∧ decode (.cw 0b0100000000000000#16) = .ok .decVec
      ∧ decode (.cw 0b0101000000000000#16) = .ok .finish := by decide

theorem test_decode_illegal_commands :
    decode (.cw 0x0001#16) = .error .illegalCommand ∧ decode (.cw 0x2002#16) = .error .illegalCommand
      ∧ decode (.cw 0x3005#16) = .error .illegalCommand ∧ decode (.cw 0x5FFF#16) = .error .illegalCommand
      ∧ decode (.cw 0x6000#16) = .error .illegalCommand ∧ decode (.cw 0xF000#16) = .error .illegalCommand := by decide

theorem test_decode_index_words :
    decode (.iw 0b00000000#8 0b00000111#8) = .ok (.index 0 7) ∧ decode (.iw 0b00000000#8 0b00001100#8) = .ok (.index 1 4)
      ∧ decode (.iw 0b00000001#8 0b00001010#8) = .ok (.index 33 2) ∧ decode (.iw 0b00000010#8 0b00000011#8) = .ok (.index 64 3)
      ∧ decode (.iw 0b00000011#8 0b00100101#8) = .ok (.index 100 5)
      ∧ decode (.iw 0b00000011#8 0b11111111#8) = .ok (.index 127 7) := by decide

theorem test_decode_index_words_out_of_range :
    decode (.iw 0x04#8 0x00#8) = .error .indexRange ∧ decode (.iw 0x80#8 0x01#8) = .error .indexRange
      ∧ decode (.iw 0xFF#8 0xFF#8) = .error .indexRange := by decide

theorem test_decode_lpc_core :
    decode (.mw 0b00000001#8) = .ok .hwin ∧ decode (.mw 0b00000010#8) = .ok .levdur
      ∧ decode (.mw 0b00000011#8) = .ok .levdurSyn ∧ decode (.mw 0b00000100#8) = .ok .bwexp := by decide

theorem test_decode_adapters :
    decode (.mw 0b00010000#8) = .ok .adaptSyn ∧ decode (.mw 0b00010001#8) = .ok .adaptGain
      ∧ decode (.mw 0b00010010#8) = .ok .adaptWgt ∧ decode (.mw 0b00010011#8) = .ok .commitSyn
      ∧ decode (.mw 0b00010100#8) = .ok .commitGain ∧ decode (.mw 0b00010101#8) = .ok .commitWgt
      ∧ decode (.mw 0b00010110#8) = .ok .sched := by decide

theorem test_decode_gain_and_filters :
    decode (.mw 0b00100000#8) = .ok .predgain ∧ decode (.mw 0b00100001#8) = .ok .updgain
      ∧ decode (.mw 0b00110000#8) = .ok .pwfilt ∧ decode (.mw 0b00110001#8) = .ok .zresp
      ∧ decode (.mw 0b00110010#8) = .ok .memupd ∧ decode (.mw 0b00110011#8) = .ok .iresp
      ∧ decode (.mw 0b00110100#8) = .ok .shapen := by decide

theorem test_decode_vq_rings_postfilter_pcm :
    decode (.mw 0b01000000#8) = .ok .trevconv ∧ decode (.mw 0b01000001#8) = .ok .vqsearch
      ∧ decode (.mw 0b01000010#8) = .ok .excite ∧ decode (.mw 0b01010000#8) = .ok .ringrd
      ∧ decode (.mw 0b01010001#8) = .ok .ringwr ∧ decode (.mw 0b01100000#8) = .ok .postfilt
      ∧ decode (.mw 0b01110000#8) = .ok .pcmIn ∧ decode (.mw 0b01110001#8) = .ok .pcmOut := by decide

theorem test_unassigned_micro_operation : decode (.mw 0x05#8) = .error .unassigned
    ∧ decode (.mw 0x17#8) = .error .unassigned ∧ decode (.mw 0xFF#8) = .error .unassigned := by decide

theorem test_table_words : decodeTableWord 16 0x0000 = some .nop ∧ decodeTableWord 16 0x2001 = some (.initDec true)
    ∧ decodeTableWord 16 0x0203 = some (.index 64 3) ∧ decodeTableWord 16 0x0400 = none
    ∧ decodeTableWord 8 0x71 = some .pcmOut ∧ decodeTableWord 8 0x72 = none := by decide

theorem test_fetch_runs_the_table_word :
    step (State.reset.withFetchWord 8 0x16) = exec .sched State.reset
      ∧ step (State.reset.withFetchWord 16 0x1000) = exec .initEnc State.reset
      ∧ step (State.reset.withFetchWord 16 0x03FF) = exec (.index 127 7) State.reset := ⟨rfl, rfl, rfl⟩

/-! ## binary32: sign, biased exponent and fraction written out by hand from IEEE 754 -/

theorem test_binary32_constants :
    b32OfInt 1 = .fin false 127 0 ∧ b32OfInt (-3) = .fin true 128 0x400000 ∧ b32OfInt 60 = .fin false 132 0x700000
      ∧ b32OfRatio 1 20 = .fin false 122 0x4CCCCD ∧ b32OfRatio 1 8 = .fin false 124 0 := by decide +kernel

/-- 2^24 + 1 is a tie between 2^24 and 2^24 + 2; the even fraction wins. 2^24 + 3 goes up to 2^24 + 4. -/
theorem test_binary32_ties_to_even :
    b32OfInt 16777217 = .fin false 151 0 ∧ b32OfInt 16777219 = .fin false 151 2 := by decide +kernel

/-- 1/3 = 0x3EAAAAAB; 1 + 2^-24 rounds back to 1; the largest finite number doubled is an infinity. -/
theorem test_binary32_rounds :
    b32Div (b32OfInt 1) (b32OfInt 3) = .fin false 125 0x2AAAAB
      ∧ b32Add (b32OfInt 1) (.fin false 103 0) = b32OfInt 1
      ∧ b32Add (.fin false 254 0x7FFFFF) (.fin false 254 0x7FFFFF) = .inf false := by decide +kernel

/-- The least subnormal halved is a tie with 0; 0·∞, ∞ − ∞ and 0/0 are NaN; −0 = +0. -/
theorem test_binary32_special_values :
    b32Mul (.fin false 0 1) (b32OfRatio 1 2) = .fin false 0 0 ∧ b32Mul b32Zero (.inf false) = .nan
      ∧ b32Sub (.inf false) (.inf false) = .nan ∧ b32Div b32Zero b32Zero = .nan
      ∧ b32Eq (.fin true 0 0) b32Zero = true ∧ b32Le .nan b32Zero = false ∧ b32Lt b32Zero .nan = false := by decide +kernel

/-! ## Linear prediction core -/

/-- T10. -/
theorem test_hwin_first_call :
    hwin toyNum 1 2 1 [0, 0, 0, 0] [1, 2] (fun _ => 1) [0, 0] (1 / 2) 1
      = { R := [5, 2], SB := [0, 0, 1, 2], REXP := [1, 0] } := by decide +kernel

/-- T10. -/
theorem test_hwin_second_call :
    hwin toyNum 1 2 1 [0, 0, 1, 2] [3, 4] (fun _ => 1) [1, 0] (1 / 2) 1
      = { R := [59 / 2, 20], SB := [1, 2, 3, 4], REXP := [27 / 2, 8] } := by decide +kernel

/-- T13. -/
theorem test_levdur_succeeds :
    levdur toyNum [4, 0, 2] 2 = some [1, 0, -1 / 2] ∧ levdur toyNum [10, 6, 2, 1] 3 = some [1, -19 / 24, 3 / 8, -1 / 6]
      ∧ levdur toyNum [2, 1] 1 = some [1, -1 / 2] ∧ levdur toyNum [4, 2, 1, 5 / 2] 3 = some [1, -1 / 2, 1 / 3, -2 / 3] := by
  decide +kernel

/-- T13. -/
theorem test_levdur_fails :
    levdur toyNum [-1, 0, 1] 2 = none ∧ levdur toyNum [2, 1, 0] 2 = none ∧ levdur toyNum [1, 2, 1] 2 = none
      ∧ levdur toyNum [1, 1, 1] 2 = none ∧ levdur toyNum [1, 0, 1] 2 = none ∧ levdur toyNum [1, 0, 0, 1] 3 = none := by
  decide +kernel

/-- T15. -/
theorem test_bwexp : bwexp toyNum [1, -1 / 2, 1 / 4] (fun i => (1 / 2) ^ i) 2 = [1, -1 / 4, 1 / 16] := by decide +kernel

/-! ## Gain predictor -/

/-- T31, first and fourth rows. -/
theorem test_updgain :
    logGain toyNum 20 1 ⟨-5, -5, -5, -5, -5⟩ = -80 / 9 ∧ logGain toyNum 20 1 ⟨1, 2, 3, 4, 5⟩ = -10
      ∧ logGain toyNum 20 1 ⟨0, 0, 0, 0, 0⟩ = -20 := by decide +kernel

/-- T32. -/
theorem test_predgain :
    predgain toyNum 20 [1, -1 / 2, 1 / 4] [8, -4, 2] = 65 / 2 ∧ predgain toyNum 20 [1, -1 / 2, 1 / 4] [100] = 1000
      ∧ predgain toyNum 20 [1, -1 / 2, 1 / 4] [-100] = 1 := by decide +kernel

/-! ## Filters -/

/-- T35. -/
theorem test_pwfilt :
    (pwfilt toyNum [1, 1 / 2] [1, -1 / 2] ⟨List.replicate 10 0, List.replicate 10 0⟩ ⟨1, 0, 0, 0, 0⟩).2
      = ⟨1, 1, 1 / 2, 1 / 4, 1 / 8⟩ := by decide +kernel

/-- T36, second case. -/
theorem test_zresp :
    zresp toyNum [1, -1 / 2] [1, 1 / 4] [1, -1 / 4]
        { syn := 8 :: List.replicate 49 0, w := ⟨8 :: List.replicate 9 0, 4 :: List.replicate 9 0⟩ }
      = (⟨4, 2, 1, 1 / 2, 1 / 4⟩, ⟨7, 19 / 4, 43 / 16, 91 / 64, 187 / 256⟩) := by decide +kernel

/-- T37, second case: the clamp, once, on the synthesis memory only. -/
theorem test_memupd_clamps_once :
    let r := memupd toyNum [1, -1 / 2] [1] [1] (-4095) 4095
      { syn := List.replicate 50 0, w := ⟨List.replicate 10 0, List.replicate 10 0⟩ } ⟨10000, 0, 0, 0, 0⟩
    r.2 = ⟨4095, 4095, 2500, 1250, 625⟩ ∧ r.1.syn.take 5 = [625, 1250, 2500, 4095, 4095]
      ∧ r.1.w.z.take 5 = [625, 1250, 2500, 5000, 10000] := by decide +kernel

/-- T38. -/
theorem test_memupd_on_memory :
    (memupd toyNum [1, -1 / 2] [1, 1 / 4] [1, -1 / 4] (-4095) 4095
        { syn := 8 :: List.replicate 49 0, w := ⟨8 :: List.replicate 9 0, 4 :: List.replicate 9 0⟩ } ⟨8, 0, -4, 0, 2⟩).2
      = ⟨12, 6, -1, -1 / 2, 7 / 4⟩ := by decide +kernel

/-- T39. -/
theorem test_iresp :
    iresp toyNum [1, -1 / 2] [1, 1 / 4] [1, -1 / 4] = ⟨1, 1, 5 / 8, 11 / 32, 23 / 128⟩
      ∧ iresp toyNum [1, 1, 1 / 2] [1, -1 / 2, 1 / 4] [1, 1 / 2, 0, 1 / 8] = ⟨1, -2, 9 / 4, -7 / 4, 1⟩ := by decide +kernel

/-- R173. -/
theorem test_shape_energy :
    shapeEnergy toyNum ⟨1, 1 / 2, 0, 0, 0⟩ (fun i => ([1, 0, 0, 0, 2] : List ℚ).getD i 0) = 21 / 4 := by decide +kernel

/-! ## Vector quantizer -/

/-- R181. -/
theorem test_trevconv : trevconv toyNum ⟨1, 1 / 2, 0, 0, 0⟩ ⟨1, 2, 3, 4, 5⟩ = ⟨2, 7 / 2, 5, 13 / 2, 5⟩ := by decide +kernel

/-- T41: eight equal codewords, the lowest wins. -/
theorem test_vqsearch_first_of_equals :
    (vqsearch toyCfg ⟨1, 0, 0, 0, 0⟩ (shapen toyNum ⟨1, 0, 0, 0, 0⟩ toyCfg.cbShape) ⟨2, -1, 0, 0, 0⟩).toNat = 265 := by
  decide +kernel

/-- T45: `|cor|` exactly at a midpoint takes the lower level. -/
theorem test_gain_level_at_a_midpoint :
    gainLevel toyCfg (15 / 4) 5 = 0 ∧ gainLevel toyCfg 4 5 = 1 ∧ gainLevel toyCfg 16 5 = 3
      ∧ gainIndex toyCfg (-4) 5 = 5 ∧ gainIndex toyCfg 0 5 = 0 := by decide +kernel

/-- T47. -/
theorem test_excite :
    excite toyCfg 268#10 10 = ⟨-10, 5, 0, 0, 0⟩ ∧ excite toyCfg 1023#10 1 = ⟨-12, 0, -8, 0, -4⟩ := by decide +kernel

/-! ## Postfilter -/

/-- R239: a residual of period 28 (a pulse every 28 samples) is found at 28, from a previous period 30 and from 100. -/
theorem test_extractPitch_finds_the_period :
    extractPitch toyNum toyOpen (fun n => if n % 28 = 0 then 1 else 0) 30 = 28
      ∧ extractPitch toyNum toyOpen (fun n => if n % 28 = 0 then 1 else 0) 100 = 28 := by decide +kernel

/-- R239: a residual of period 28 and one of period 21, which no lag of the decimated signal below 84 meets, from previous
periods near and far. -/
theorem test_extractPitch_on_periodic_residuals :
    extractPitch toyNum toyOpen (fun n => if n % 28 = 0 then 1 else 0) 56 = 28
      ∧ extractPitch toyNum toyOpen (fun n => if n % 21 = 0 then 1 else 0) 84 = 21
      ∧ extractPitch toyNum toyOpen (fun n => if n % 139 = 0 then 1 else 0) 20 = 139 := by decide +kernel

/-- R234: a jump is rejected where the new tap does not dominate. Pulses every 28 samples repeat at 56 too, with the same
tap, so a previous period of 56 is kept; a stray sample at age 151 makes the residual no periodic one. -/
theorem test_extractPitch_rejects_a_jump :
    extractPitch toyNum toyOpen (fun n => if n = 151 then 7 else if n % 28 = 0 then 1 else 0) 56 = 56 := by decide +kernel

/-- R236 by hand: sample 0 has age 4, its copy at period 20 has age 24: 2/3·(3 + 1/2·24) = 10; sample 4: 2/3·(5 + 1/2·20). -/
theorem test_combFilter :
    (combFilter toyNum toyOpen ⟨3, 0, 0, 0, 5⟩ (fun age => age) 20).v0 = 10
      ∧ (combFilter toyNum toyOpen ⟨3, 0, 0, 0, 5⟩ (fun age => age) 20).v4 = 10 := by decide +kernel

/-- R237 by hand, `a10 = [1, 2]`: y[0] = 1, y[1] = 2·1/2·1 − 2·1/4·1 = 1/2; with `k1 = 1` the tilt adds 1/2·y[k−1]. -/
theorem test_shortTermFilter :
    let y := (shortTermFilter toyNum toyOpen [1, 2] ⟨List.replicate 10 0, List.replicate 10 0⟩ ⟨1, 0, 0, 0, 0⟩).2
    y.v0 = 1 ∧ y.v1 = 1 / 2 ∧ (tiltFilter toyNum toyOpen 1 4 y).v0 = 3 ∧ (tiltFilter toyNum toyOpen 1 4 y).v1 = 1 := by
  decide +kernel

/-- R238 by hand: the energies are 4 and 1; the gain goes from 1 to 5/2 and then to 13/4. -/
theorem test_gain_control :
    vectorGain toyNum toyOpen ⟨2, 0, 0, 0, 0⟩ ⟨1, 0, 0, 0, 0⟩ = 4 ∧ smoothGain toyNum toyOpen 4 1 3 = (5 / 2, 15 / 2)
      ∧ smoothGain toyNum toyOpen 4 (5 / 2) 1 = (13 / 4, 13 / 4) := by decide +kernel

/-! ## Interface conversions -/

/-- T60. -/
theorem test_pcm_toy :
    pcmIn toyNum (-32768) = -4096 ∧ pcmOut toyNum (1 / 16) = 0 ∧ pcmOut toyNum (3 / 16) = 2
      ∧ pcmOut toyNum (-4096) = -32768 ∧ pcmOut toyNum 4096 = 32767 := by decide +kernel

/-- T60 in binary32: 100 is 12.5, and back. -/
theorem test_pcm_binary32 :
    pcmIn binary32 100 = .fin false 130 0x480000 ∧ pcmOut binary32 (.fin false 130 0x480000) = 100
      ∧ pcmOut binary32 (b32OfRatio 5 16) = 2 := by decide +kernel

/-! ## Whole vector steps over TOY -/

/-- P1, first vector: index 0, `et` and `sq` all −5, the counters at 1. -/
theorem test_first_zero_vector :
    let r := encodeVector toyCfg ⟨0, 0, 0, 0, 0⟩ (sessionStart toyCfg .enc false)
    r.idx = 0#10 ∧ r.gain = 10 ∧ r.sq = ⟨-5, -5, -5, -5, -5⟩ ∧ r.core.PHASE = .p2 ∧ r.core.VX = 1
      ∧ r.core.GSTATE = -80 / 9 :: List.replicate 9 0 ∧ r.core.A_RDY = false := by decide +kernel

/-- P5, first vector: the postfilter writes PF_STATE and QIN, not QSYN. -/
theorem test_first_postfiltered_vector :
    let r := decodeVector toyCfg 268#10 (sessionStart toyCfg .dec true)
    r.sq = ⟨-10, 5, 0, 0, 0⟩ ∧ r.out = ⟨-5, 5 / 2, 0, 0, 0⟩ ∧ r.core.PF_STATE.history = 1
      ∧ r.core.QSYN.take 5 = [-10, 5, 0, 0, 0] ∧ r.core.QIN.take 5 = [-5, 5 / 2, 0, 0, 0] := by decide +kernel

/-! ## One step of an instruction on a small state -/

/-- The next state of an instruction, if it has one. -/
def after (i : Instr) (s : State) : Option State :=
  match exec i s with
  | .next t => some t
  | .fault _ => none
  | .refused _ => none

/-- The next state of a step, if it has one. -/
def afterStep (s : State) : Option State :=
  match step s with
  | .next t => some t
  | .fault _ => none
  | .refused _ => none

/-- `n` as a sample. -/
def num (n : Int) : B32 := b32OfInt n

/-- An encoder with one input vector and one sample more. -/
def encoder : State :=
  { State.reset with
    toCoreState := sessionStart cfg .enc false, DIN_SMP := [num 1, num 2, num 3, num 4, num 5, num 6] }

/-- A decoder with two index words and one byte more. -/
def decoder (pf : Bool) : State :=
  { State.reset with
    toCoreState := sessionStart cfg .dec pf, DIN_IDX := [0x02#8, 0x03#8, 0x00#8, 0x0C#8, 0xFF#8] }

/-- P4, step 1: a vector command at power-on. -/
theorem test_decVec_refused_at_power_on :
    (after .decVec State.reset).map (·.status) = some ⟨.idle, .badState, .p1, .enc, false⟩ := by decide +kernel

/-- P4, step 6: 1024 is out of range; the two bytes are gone and nothing else is. -/
theorem test_decVec_out_of_range :
    (after .decVec { decoder false with DIN_IDX := [0x04#8, 0x00#8, 0x01#8] }).map
      (fun t => (t.status, t.DIN_IDX, t.VX, t.DOUT_SMP.length))
        = some (⟨.finished, .indexRange, .p1, .dec, false⟩, [0x01#8], 0, 0) := by decide +kernel

/-- Phase 4 wraps to 1 and slot 11 to 0 (R212). -/
theorem test_decVec_takes_two_bytes_and_gives_five_samples :
    (after .decVec { decoder true with PHASE := .p4, VX := 11 }).map
      (fun t => (t.status, t.DIN_IDX, t.VX, t.DOUT_SMP.length))
        = some (⟨.running, .none, .p1, .dec, true⟩, [0x00#8, 0x0C#8, 0xFF#8], 0, 5) := by decide +kernel

theorem test_encVec_takes_five_samples_and_gives_two_bytes :
    (after .encVec { encoder with PHASE := .p4, VX := 3 }).map
      (fun t => (t.status, t.DIN_SMP, t.VX, t.DOUT_IDX.length))
        = some (⟨.running, .none, .p1, .enc, false⟩, [num 6], 4, 2) := by decide +kernel

/-- T2: 0x6000 on CMD of a power-on instance. -/
theorem test_illegal_command_word :
    (afterStep { State.reset with CMD := [0x6000#16] }).map (fun t => (t.status, t.CMD))
      = some (⟨.idle, .illegalCmd, .p1, .enc, false⟩, []) := by decide +kernel

theorem test_unassigned_micro_operation_is_refused :
    step { State.reset with bench := some (.mw 0x05#8) } = .refused .unassignedMicroOp := rfl

/-- R253 in a running decoder, R255 and R264 after a fatal condition: an index word out of range, run alone. -/
theorem test_bare_index_word_out_of_range :
    (afterStep { decoder false with bench := some (.iw 0x04#8 0x00#8) }).map (·.status)
        = some ⟨.finished, .indexRange, .p1, .dec, false⟩
      ∧ (afterStep { decoder false with CTRL := .finished, ERR := .truncated, bench := some (.iw 0x04#8 0x00#8) }).map
        (·.status) = some ⟨.finished, .badState, .p1, .dec, false⟩ := by decide +kernel

/-- P4, steps 12 and 13. -/
theorem test_initEnc_then_status : (after .initEnc (decoder true)).map (·.status)
    = some ⟨.running, .none, .p1, .enc, false⟩ := by decide +kernel

theorem test_finish : (after .finish encoder).map (·.status) = some ⟨.finished, .none, .p1, .enc, false⟩ := by
  decide +kernel

/-- T3: at `VX = 11` RINGWR writes the last five places, and only of its own ring. -/
theorem test_ringwr_last_slot :
    (after .ringwr { State.reset with
        VX := 11, loc := { localsReset with wring := .qexc, v := ⟨num 1, num 2, num 3, num 4, num 5⟩ } }).map
      (fun t => (t.QEXC.drop 54, decide (t.QSYN = State.reset.QSYN)))
        = some ([num 0, num 1, num 2, num 3, num 4, num 5], true) := by decide +kernel

/-- T3: at `VX = 1` the window of QLG is `[9..11] ++ [0]`. -/
theorem test_ringrd_wraps :
    (after .ringrd { State.reset with
        VX := 1, QLG := [num 10, num 11, num 0, num 0, num 0, num 0, num 0, num 0, num 0, num 7, num 8, num 9]
        loc := { localsReset with ring := .qlg, len := 4 } }).map (·.loc.new)
      = some [num 7, num 8, num 9, num 10] := by decide +kernel

/-- T20. -/
theorem test_commitSyn :
    (after .commitSyn { State.reset with A_PEND := [num 1, num 2], A_RDY := true }).map
      (fun t => (t.A_CUR, t.A_PEND, t.A_RDY)) = some ([num 1, num 2], [num 1, num 2], false) := by decide +kernel

/-- T20: the two weighting sets commit together. -/
theorem test_commitWgt :
    (after .commitWgt { State.reset with WZ_PEND := [num 1, num 3], WP_PEND := [num 1, num 4], W_RDY := true }).map
      (fun t => (t.WZ_CUR, t.WP_CUR, t.W_RDY)) = some ([num 1, num 3], [num 1, num 4], false) := by decide +kernel

/-- R171 in binary32, where these fractions are exact. -/
theorem test_iresp_instruction :
    (after .iresp { State.reset with
        A_CUR := [num 1, b32OfRatio (-1) 2], WZ_CUR := [num 1, b32OfRatio 1 4], WP_CUR := [num 1, b32OfRatio (-1) 4] }).map
      (·.H) = some ⟨num 1, num 1, b32OfRatio 5 8, b32OfRatio 11 32, b32OfRatio 23 128⟩ := by decide +kernel

/-- T36, first case, in binary32. -/
theorem test_zresp_instruction :
    (after .zresp { State.reset with
        A_CUR := [num 1, b32OfRatio (-1) 2], SYN_MEM := num 8 :: List.replicate 49 (num 0) }).map
      (fun t => (t.loc.zs, decide (t.SYN_MEM.head? = some (num 8))))
        = some (⟨num 4, num 2, num 1, b32OfRatio 1 2, b32OfRatio 1 4⟩, true) := by decide +kernel

/-- T35 in binary32. -/
theorem test_pwfilt_instruction :
    (after .pwfilt { State.reset with
        WZ_CUR := [num 1, b32OfRatio 1 2], WP_CUR := [num 1, b32OfRatio (-1) 2]
        loc := { localsReset with inp := ⟨num 1, num 0, num 0, num 0, num 0⟩ } }).map
      (fun t => (t.loc.v, t.PWF_ZMEM.take 5)) = some (⟨num 1, num 1, b32OfRatio 1 2, b32OfRatio 1 4, b32OfRatio 1 8⟩,
        [num 0, num 0, num 0, num 0, num 1]) := by decide +kernel

/-- R121 in binary32: the recursion on the lags 1, 1/2, 1/4, … gives the coefficients 1, −1/2, 0, …. -/
theorem test_levdur_instruction :
    (after .levdur { State.reset with
        loc := { localsReset with adapter := .gain, R := (List.range 11).map (fun i => b32OfRatio 1 (2 ^ i)) } }).map
      (fun t => (t.loc.ok, t.loc.a.take 3)) = some (true, [num 1, b32OfRatio (-1) 2, num 0]) := by decide +kernel

/-- R119: the first reflection coefficient is cached on success. -/
theorem test_levdurSyn_instruction :
    (after .levdurSyn { State.reset with
        loc := { localsReset with R := (List.range 51).map (fun i => b32OfRatio 1 (2 ^ i)) } }).map
      (fun t => (t.loc.ok, t.PF_K1, t.PF_A10.take 2)) = some (true, b32OfRatio (-1) 2, [num 1, b32OfRatio (-1) 2]) := by
  decide +kernel

/-- R222, R223. -/
theorem test_pcm_instructions :
    (after .pcmIn { State.reset with loc := { localsReset with p := 0x8000#16 } }).map (·.loc.x) = some (num (-4096))
      ∧ (after .pcmOut { State.reset with loc := { localsReset with x := num 5000 } }).map (·.loc.p)
        = some 0x7FFF#16 := by decide +kernel

/-! ## Witnesses: states and operands that meet the hypotheses of the statements -/

theorem test_witness_FinishEndsARunningSession :
    encoder.CTRL = .running ∧ State.reset.CTRL ≠ .running := by decide +kernel

theorem test_witness_CommandsAreRefusedInTheWrongState :
    ¬ ((decoder false).CTRL = .running ∧ (decoder false).MODE = .enc)
      ∧ ¬ (encoder.CTRL = .running ∧ encoder.MODE = .dec) ∧ State.reset.CTRL ≠ .running := by decide +kernel

/-- Also for EncVecEmitsOneIndexWord. -/
theorem test_witness_EncVecRunsItsMicroOperationsInOrder :
    encoder.CTRL = .running ∧ encoder.MODE = .enc
      ∧ encoder.DIN_SMP = (Vec5.mk (num 1) (num 2) (num 3) (num 4) (num 5)).toList ++ [num 6] ∧ encoder.QIN.length = 60 := by
  decide +kernel

theorem test_witness_EncVecWaitsForItsFiveSamples :
    ({ encoder with DIN_SMP := [num 1, num 2, num 3, num 4] } : State).CTRL = .running
      ∧ ({ encoder with DIN_SMP := [num 1, num 2, num 3, num 4] } : State).MODE = .enc
      ∧ ({ encoder with DIN_SMP := [num 1, num 2, num 3, num 4] } : State).DIN_SMP.length < 5 := by decide +kernel

/-- Also for UnpostfilteredOutputIsClampedAndStored, with the postfilter off, and with it on. -/
theorem test_witness_DecVecRunsItsMicroOperationsInOrder :
    (decoder false).CTRL = .running ∧ (decoder false).MODE = .dec ∧ (decoder false).PF_EN = false
      ∧ (decoder true).PF_EN = true ∧ (decoder false).DIN_IDX = 0x02#8 :: 0x03#8 :: [0x00#8, 0x0C#8, 0xFF#8]
      ∧ decode (.iw 0x02#8 0x03#8) = .ok (.index 64 3)
      ∧ (decoder false).QIN.length = 60 ∧ (decoder false).QSYN.length = 60 ∧ (decoder false).SYN_MEM.length = 50 := by
  decide +kernel

/-- The third clause at its lower bound, 1024, and just below it, where it does not apply; for the last clause a finished
session given an index word out of range, and the step it takes. -/
theorem test_witness_DecVecEndsTheSessionPrecisely :
    (decoder false).CTRL = .running ∧ (decoder false).MODE = .dec
      ∧ ({ decoder false with DIN_IDX := [] } : State).DIN_IDX = []
      ∧ ({ decoder false with DIN_IDX := [0x02#8] } : State).DIN_IDX = [0x02#8]
      ∧ 1024 ≤ (0x04#8 : Byte).toNat * 256 + (0x00#8 : Byte).toNat
      ∧ ¬ 1024 ≤ (0x03#8 : Byte).toNat * 256 + (0xFF#8 : Byte).toNat
      ∧ ({ decoder false with CTRL := .finished, bench := some (.iw 0x04#8 0x00#8) } : State).CTRL = .finished
      ∧ step { decoder false with CTRL := .finished, bench := some (.iw 0x04#8 0x00#8) }
        = .next { decoder false with CTRL := .finished, ERR := .badState, bench := none } := by
  refine ⟨rfl, rfl, rfl, rfl, ?_, ?_, rfl, rfl⟩ <;> decide

/-- One word for each of the three clauses, at the end of its range. -/
theorem test_witness_IllegalCommandWordsAreRefused :
    6 ≤ (0x6000#16 : HalfWord).toNat / 4096
      ∧ ((0x2002#16 : HalfWord).toNat / 4096 = 2 ∧ 2 ≤ (0x2002#16 : HalfWord).toNat % 4096)
      ∧ ((0x5001#16 : HalfWord).toNat / 4096 ≤ 5 ∧ (0x5001#16 : HalfWord).toNat / 4096 ≠ 2
        ∧ (0x5001#16 : HalfWord).toNat % 4096 ≠ 0)
      ∧ ({ State.reset with CMD := [0x6000#16] } : State).CMD = 0x6000#16 :: [] ∧ State.reset.bench = none := by
  decide +kernel

theorem test_witness_StepRunsTheDecodedInstruction :
    ({ State.reset with CMD := [0x3000#16, 0x5000#16] } : State).CMD = 0x3000#16 :: [0x5000#16]
      ∧ State.reset.bench = none ∧ decode (.cw 0x3000#16) = .ok .encVec
      ∧ ({ State.reset with bench := some (.mw 0x16#8) } : State).bench = some (.mw 0x16#8)
      ∧ decode (.mw 0x16#8) = .ok .sched := by decide +kernel

theorem test_witness_IdleStepHoldsAllState : State.reset.bench = none ∧ State.reset.CMD = [] := ⟨rfl, rfl⟩

theorem test_witness_EncodeOfDecodeIsTheWord : decode (.iw 0x03#8 0xFF#8) = .ok (.index 127 7) := by decide

/-- A whole speech ring, and the whole log-gain ring: the longest windows that the precondition of the rule allows. -/
theorem test_witness_RingrdReadsTheWindow :
    (59 < ({ localsReset with ring := .speech .qsyn, len := 60 } : Locals).len
      ∧ 60 ≤ ringLength (.speech .qsyn)
      ∧ ({ localsReset with ring := .speech .qsyn, len := 60 } : Locals).ring = .speech .qsyn)
      ∧ (11 < ({ localsReset with ring := .qlg, len := 12 } : Locals).len ∧ 12 ≤ ringLength .qlg
      ∧ ({ localsReset with ring := .qlg, len := 12 } : Locals).ring = .qlg) := by decide

theorem test_witness_RingwrWritesItsSlotOnly :
    State.reset.loc.wring = .qin ∧ (ringOf State.reset.toCoreState (.speech .qin)).length = 60 := by decide +kernel

theorem test_witness_HwinShiftsWindowsAndAccumulates :
    State.reset.loc.adapter = .syn
      ∧ ({ State.reset with loc := { localsReset with adapter := .wgt } } : State).loc.adapter = .wgt
      ∧ ({ State.reset with loc := { localsReset with adapter := .gain } } : State).loc.adapter = .gain := ⟨rfl, rfl, rfl⟩

/-- R121: 4, 0, 2 meets the hypotheses at order 2. -/
theorem test_witness_LevdurSolvesTheNormalEquations :
    (1 ≤ 2) ∧ levdur (exactNum ℚ toyLog10 toyPow10 toyRound) [4, 0, 2] 2 = some [1, 0, -1 / 2] := by decide +kernel

/-- A start, and a step of order 2 that succeeds from it. -/
theorem test_witness_LevdurResidualEnergyNeverRises :
    levStart toyNum [4, 0, 2] 2 = some { a := [1, 0], alpha := 4, k1 := 0, a10 := [] }
      ∧ (2 ≤ 2) ∧ (0 : ℚ) < 4
      ∧ levStep toyNum [4, 0, 2] { a := [1, 0], alpha := 4, k1 := 0, a10 := [] } 2
        = some { a := [1, 0, -1 / 2], alpha := 3, k1 := 0, a10 := [] } := by decide +kernel

/-- The three entry tests, each on an autocorrelation that fails it and passes those before; test_levdur_instruction is an
autocorrelation that passes all. -/
theorem test_witness_LevdurAnswersOrFailsSafely :
    b32Eq (rd binary32 [] 50) b32Zero = true
      ∧ b32Le (rd binary32 (num 0 :: List.replicate 50 (num 1)) 0) b32Zero = true
      ∧ b32Le (b32Add (num 1) (b32Mul (num 1) (b32Neg (b32Div (num 1) (num 1))))) b32Zero = true := by decide +kernel

theorem test_witness_BwexpScalesEachCoefficient : 50 ≤ bwOrder State.reset.loc.bw := by decide

theorem test_witness_ZeroEnergyAdaptersChangeNothing :
    State.reset.QSYN = List.replicate 60 b32Zero ∧ State.reset.SB_SYN = List.replicate (70 + cfg.nonr) b32Zero
      ∧ State.reset.REXP_SYN = List.replicate 51 b32Zero ∧ State.reset.QLG = List.replicate 12 b32Zero
      ∧ State.reset.SB_G = List.replicate (14 + cfg.nonrlg) b32Zero ∧ State.reset.REXP_G = List.replicate 11 b32Zero
      ∧ State.reset.QIN = List.replicate 60 b32Zero ∧ State.reset.SB_W = List.replicate (30 + cfg.nonrw) b32Zero
      ∧ State.reset.REXP_W = List.replicate 11 b32Zero := ⟨rfl, rfl, rfl, rfl, rfl, rfl, rfl, rfl, rfl⟩

theorem test_witness_CommitsCopyPendingExactlyWhenReady :
    State.reset.A_RDY = false ∧ State.reset.GP_RDY = false ∧ State.reset.W_RDY = false
      ∧ ({ State.reset with A_RDY := true, GP_RDY := true, W_RDY := true } : State).A_RDY = true
      ∧ ({ State.reset with A_RDY := true, GP_RDY := true, W_RDY := true } : State).GP_RDY = true
      ∧ ({ State.reset with A_RDY := true, GP_RDY := true, W_RDY := true } : State).W_RDY = true := by decide +kernel

theorem test_witness_SchedRunsThePhaseActions :
    State.reset.PHASE = .p1 ∧ ({ State.reset with PHASE := .p2 } : State).PHASE = .p2
      ∧ ({ State.reset with PHASE := .p3 } : State).PHASE = .p3
      ∧ ({ State.reset with PHASE := .p4 } : State).PHASE = .p4 := by decide +kernel

/-- For both statements about the predicted gain: at power-on the log-gain is the reference level, a number. -/
theorem test_witness_PredictedGainIsPositive :
    b32IsNumber (predictedDb binary32 cfg.goff State.reset.GP_CUR State.reset.GSTATE) = true := by
  have h : taps binary32 State.reset.GP_CUR State.reset.GSTATE 10 = b32Zero := by decide +kernel
  have g : ∀ z : Int, b32IsNumber (roundSigned z) = true := by
    intro z
    unfold roundSigned roundUnits pack
    simp only
    split_ifs <;> rfl
  have hc : b32IsFinite cfg.goff = true := by
    show b32IsFinite (finiteOr0 Config.goff) = true
    unfold finiteOr0
    split
    · assumption
    · rfl
  rw [predictedDb, h]
  revert hc
  generalize cfg.goff = x
  intro hc
  cases x with
  | nan => cases hc
  | inf _ => cases hc
  | fin na ea fa =>
    show b32IsNumber (b32Add (.fin na ea fa) (.fin true 0 0)) = true
    simp only [b32Add]
    split
    · rfl
    · exact g _

/-- For the statements about UPDGAIN, PWFILT, ZRESP and MEMUPD. -/
theorem test_witness_memory_lengths :
    State.reset.GSTATE.length = 10 ∧ State.reset.QLG.length = 12 ∧ State.reset.PWF_ZMEM.length = 10
      ∧ State.reset.PWF_PMEM.length = 10 ∧ State.reset.SYN_MEM.length = 50 ∧ State.reset.WF_ZMEM.length = 10
      ∧ State.reset.WF_PMEM.length = 10 := by decide +kernel

/-- For the clause about the stages of POSTFILT. -/
theorem test_witness_PostfiltWritesItsOwnStateOnly :
    State.reset.PF_STATE.z.length = 10 ∧ State.reset.PF_STATE.p.length = 10 := ⟨pfInit_z_length, pfInit_p_length⟩

/-- For its clause about a residual of known period: pulses every `p` samples, at both ends of the range. -/
theorem test_witness_PostfiltWritesItsOwnStateOnly_period :
    ∀ p, p = 20 ∨ p = 140 →
      (∀ n, b32Eq ((fun n => if n % p = 0 then num 1 else b32Zero) n)
        ((fun n => if n % p = 0 then num 1 else b32Zero) (n + p)) = true)
      ∧ ∀ q, 1 ≤ q → q < p → ∃ n, b32Eq ((fun n => if n % p = 0 then num 1 else b32Zero) n)
        ((fun n => if n % p = 0 then num 1 else b32Zero) (n + q)) = false := by
  intro p _
  have same : b32Eq (num 1) (num 1) = true ∧ b32Eq b32Zero b32Zero = true ∧ b32Eq (num 1) b32Zero = false := by
    decide +kernel
  refine ⟨fun n => ?_, fun q h1 h2 => ⟨0, ?_⟩⟩
  · show b32Eq (if n % p = 0 then num 1 else b32Zero) (if (n + p) % p = 0 then num 1 else b32Zero) = true
    rw [Nat.add_mod_right]
    split
    · exact same.1
    · exact same.2.1
  · show b32Eq (if 0 % p = 0 then num 1 else b32Zero) (if (0 + q) % p = 0 then num 1 else b32Zero) = false
    rw [Nat.zero_mod, Nat.zero_add, Nat.mod_eq_of_lt h2, if_pos rfl, if_neg (by omega)]
    exact same.2.2

theorem test_witness_CascadeSuperposes :
    ∃ m : CMem ℚ, m.syn.length = 50 ∧ m.w.z.length = 10 ∧ m.w.p.length = 10 ∧ m.syn.head? = some 8 :=
  ⟨{ syn := 8 :: List.replicate 49 0, w := ⟨List.replicate 10 1, List.replicate 10 2⟩ }, rfl, rfl, rfl, rfl⟩

theorem test_witness_VqsearchIsOptimalOverAllPairs :
    toyCfg.num = exactNum ℚ toyLog10 toyPow10 toyRound
      ∧ 0 < toyCfg.cbGain 0 ∧ toyCfg.cbGain 0 < toyCfg.cbGain 1 ∧ toyCfg.cbGain 1 < toyCfg.cbGain 2
      ∧ toyCfg.cbGain 2 < toyCfg.cbGain 3 ∧ (∀ g < 4, toyCfg.cbGain (g + 4) = -toyCfg.cbGain g)
      ∧ ∀ j < 128, 0 ≤ rd toyCfg.num (List.replicate 128 1) j := by
  refine ⟨rfl, ?_⟩
  decide +kernel

theorem test_witness_IndexWordStandsForItsExcitation : 127 < 128 ∧ 7 < 8 := by decide

/-- A running encoder meets the invariant, and NOP is a step it can take. -/
theorem test_witness_EveryStepKeepsTheInvariant :
    ({ encoder with CMD := [0#16] } : State).Inv
      ∧ step { encoder with CMD := [0#16] } = .next { encoder with CMD := [] } := by
  have clampZero : InClampRange cfg b32Zero := by
    constructor
    · show b32Lt b32Zero stateMin = false
      unfold stateMin
      split
      · rename_i h
        simp only [Bool.and_eq_true, b32Le, decide_eq_true_eq] at h
        simp only [b32Lt, Bool.and_eq_false_iff, decide_eq_false_iff_not]
        exact .inr (by omega)
      · decide +kernel
    · show b32Lt stateMax b32Zero = false
      unfold stateMax
      split
      · rename_i h
        simp only [Bool.and_eq_true, b32Le, decide_eq_true_eq] at h
        simp only [b32Lt, Bool.and_eq_false_iff, decide_eq_false_iff_not]
        exact .inr (by omega)
      · decide +kernel
  refine ⟨⟨⟨sessionStart_ringsWf cfg .enc false, ?_, ?_, ?_, ?_, ?_, ?_, ?_, ?_, ?_, ?_, ?_, ?_, ?_, ?_, ?_, ?_, ?_, ?_, ?_, ?_,
    ?_, ?_⟩, ⟨rfl, rfl, rfl, rfl, rfl, rfl, rfl, rfl, rfl⟩, ?_,
    ⟨pfInit_period.1, pfInit_period.2, pfInit_z_length, pfInit_p_length⟩⟩, rfl⟩
  all_goals first
    | exact List.length_replicate
    | rfl
    | skip
  intro x hx
  rw [show ({ encoder with CMD := [0#16] } : State).SYN_MEM = List.replicate 50 b32Zero from rfl] at hx
  rw [List.eq_of_mem_replicate hx]
  exact clampZero

/-- An encoder whose synthesis set waits for its commit: phase 2 with the flag set. -/
theorem test_witness_CommandsKeepFlagsAndCacheSettled :
    ({ sessionStart cfg .enc false with PHASE := .p2, A_RDY := true } : CoreState B32).Settled cfg
      ∧ ({ encoder with CMD := [0x3000#16] } : State).bench = none
      ∧ ({ encoder with CMD := [0x3000#16] } : State).CMD = 0x3000#16 :: [] :=
  ⟨⟨rfl, rfl, fun _ => .inl rfl, rfl, rfl⟩, rfl, rfl⟩

/-- The start of a stream, the decoder with its postfilter on. -/
theorem test_witness_EncoderAndDecoderStayInStep :
    encoder.CTRL = .running ∧ encoder.MODE = .enc ∧ (decoder true).CTRL = .running ∧ (decoder true).MODE = .dec
      ∧ InStep encoder.toCoreState (decoder true).toCoreState :=
  ⟨rfl, rfl, rfl, rfl,
    ⟨rfl, rfl, rfl, rfl, rfl, rfl, rfl, rfl, rfl, rfl, rfl, rfl, rfl, rfl, rfl, rfl, rfl, rfl, rfl⟩⟩

theorem test_witness_PostfilterFeedsNothingBack :
    (sessionStart toyCfg .dec true).MODE = .dec
      ∧ SameButPostfilter (sessionStart toyCfg .dec true) (sessionStart toyCfg .dec false) := ⟨rfl, rfl⟩

/-- Two instances that differ in their mode, in QIN and in QEXC. -/
theorem test_witness_DecoderOutputDependsOnItsViewOnly :
    (sessionStart toyCfg .dec false).PF_EN = false
      ∧ ({ sessionStart toyCfg .enc false with QIN := [1], QEXC := [2] } : CoreState ℚ).PF_EN = false
      ∧ SameDecoderView (sessionStart toyCfg .dec false)
        { sessionStart toyCfg .enc false with QIN := [1], QEXC := [2] } :=
  ⟨rfl, rfl, ⟨rfl, rfl, rfl, rfl, rfl, rfl, rfl, rfl, rfl, rfl, rfl, rfl, rfl, rfl, rfl, rfl⟩⟩

theorem test_witness_SynthesisSetStaysInitialForFourteenVectors :
    toyCfg.num = exactNum ℚ toyLog10 toyPow10 toyRound ∧ toyCfg.phaseInit = .p1
      ∧ (List.replicate 14 (Vec5.mk 1 2 3 4 (5 : ℚ))).length ≤ 14 ∧ (List.replicate 14 268#10).length ≤ 14 := by
  refine ⟨rfl, rfl, ?_, ?_⟩ <;> simp

end Sys2Proof.Tests
end

section
/-! SUPPORT. The order of binary32 and its rounding: what `pack` and `roundUnits` answer, that rounding keeps the order, and
so that multiplication by a number that is not negative does. With it, the bounds of the predicted gain
(42_gain_predictor.md R152). -/

namespace Sys2Proof.Machine

/-! ## Comparisons -/

theorem b32Lt_iff {a b : B32} :
    b32Lt a b = true ↔ b32IsNumber a = true ∧ b32IsNumber b = true ∧ b32Key a < b32Key b := by
  simp [b32Lt, and_assoc]

theorem b32Le_iff {a b : B32} :
    b32Le a b = true ↔ b32IsNumber a = true ∧ b32IsNumber b = true ∧ b32Key a ≤ b32Key b := by
  simp [b32Le, and_assoc]

theorem b32Le_of_not_lt {a b : B32} (ha : b32IsNumber a = true) (hb : b32IsNumber b = true) (h : ¬ b32Lt a b = true) :
    b32Le b a = true :=
  b32Le_iff.mpr ⟨hb, ha, not_lt.mp fun hlt => h (b32Lt_iff.mpr ⟨ha, hb, hlt⟩)⟩

theorem b32Le_refl {a : B32} (h : b32IsNumber a = true) : b32Le a a = true := b32Le_iff.mpr ⟨h, h, le_rfl⟩

theorem b32Le_trans {a b c : B32} (hab : b32Le a b = true) (hbc : b32Le b c = true) : b32Le a c = true := by
  obtain ⟨ha, -, hab⟩ := b32Le_iff.mp hab
  obtain ⟨-, hc, hbc⟩ := b32Le_iff.mp hbc
  exact b32Le_iff.mpr ⟨ha, hc, hab.trans hbc⟩

/-- A number clamped between two ordered bounds lies between them (00_scope.md R15). -/
theorem clamp_mem {x lo hi : B32} (hx : b32IsNumber x = true) (h : b32Le lo hi = true) :
    b32Le lo (clamp binary32 x lo hi) = true ∧ b32Le (clamp binary32 x lo hi) hi = true := by
  obtain ⟨hlo, hhi, -⟩ := b32Le_iff.mp h
  unfold clamp
  split
  next => exact ⟨b32Le_refl hlo, h⟩
  next notBelow =>
    split
    next => exact ⟨h, b32Le_refl hhi⟩
    next notAbove => exact ⟨b32Le_of_not_lt hx hlo notBelow, b32Le_of_not_lt hhi hx notAbove⟩

/-! ## Keys -/

@[simp] theorem b32Key_zero : b32Key b32Zero = 0 := rfl

theorem b32Key_fin_pos (e : Fin 255) (f : Fin 8388608) : b32Key (.fin false e f) = units e f := rfl

theorem b32Key_fin_neg (e : Fin 255) (f : Fin 8388608) : b32Key (.fin true e f) = -(units e f : Int) := rfl

/-- Where only a zero carries the minus sign, the key is the magnitude. -/
theorem b32Key_fin_of_nonneg {neg : Bool} {e : Fin 255} {f : Fin 8388608} (h : neg = true → units e f = 0) :
    b32Key (.fin neg e f) = units e f := by
  cases neg
  case false => rfl
  case true => rw [b32Key_fin_neg, h rfl]; rfl

/-- Every finite magnitude is below the power of two that follows the largest one. -/
theorem units_lt (e : Fin 255) (f : Fin 8388608) : units e f < 2 ^ 24 * 2 ^ 253 := by
  unfold units
  split
  next => omega
  next =>
    calc (8388608 + f.val) * 2 ^ (e.val - 1) < 2 ^ 24 * 2 ^ (e.val - 1) :=
          Nat.mul_lt_mul_of_pos_right (by omega) (Nat.two_pow_pos _)
      _ ≤ 2 ^ 24 * 2 ^ 253 := Nat.mul_le_mul_left _ (Nat.pow_le_pow_right two_pos (by omega))

theorem b32Key_fin_lt_inf (neg : Bool) (e : Fin 255) (f : Fin 8388608) :
    b32Key (.fin neg e f) < b32Key (.inf false) := by
  have hlt : (units e f : Int) < b32Key (.inf false) :=
    calc (units e f : Int) < 2 ^ 24 * 2 ^ 253 := by exact_mod_cast units_lt e f
      _ < b32Key (.inf false) := by decide +kernel
  cases neg
  case false => exact hlt
  case true => rw [b32Key_fin_neg]; omega

/-- A number between zero and a finite one is finite, and carries the minus sign only as the negative zero. -/
theorem finite_of_le_finite {x y : B32} (h0 : b32Le b32Zero x = true) (hxy : b32Le x y = true)
    (hy : b32IsFinite y = true) : ∃ neg e f, x = .fin neg e f ∧ (neg = true → units e f = 0) := by
  obtain ⟨-, hx, h0⟩ := b32Le_iff.mp h0
  obtain ⟨-, -, hxy⟩ := b32Le_iff.mp hxy
  rw [b32Key_zero] at h0
  match x, y with
  | .nan, _ => cases hx
  | .inf _, .nan => cases hy
  | .inf _, .inf _ => cases hy
  | .fin neg e f, _ =>
    refine ⟨neg, e, f, rfl, ?_⟩
    rintro rfl
    rw [b32Key_fin_neg] at h0
    omega
  | .inf true, .fin .. => exact absurd h0 (by decide +kernel)
  | .inf false, .fin neg e f => exact absurd hxy (b32Key_fin_lt_inf neg e f).not_ge

/-! ## Rounding to the nearest integer -/

theorem divNearestEven_mul (k : Nat) {d : Nat} (hd : 0 < d) : divNearestEven (k * d) d = k := by
  simp [divNearestEven, Nat.mul_div_cancel _ hd, hd.ne]

theorem div_le_divNearestEven (n d : Nat) : n / d ≤ divNearestEven n d := by
  unfold divNearestEven; split <;> omega

theorem divNearestEven_le_div_succ (n d : Nat) : divNearestEven n d ≤ n / d + 1 := by
  unfold divNearestEven; split <;> omega

theorem divNearestEven_mono {n n' : Nat} (d : Nat) (h : n ≤ n') : divNearestEven n d ≤ divNearestEven n' d := by
  obtain hlt | heq := (Nat.div_le_div_right (c := d) h).lt_or_eq
  · calc divNearestEven n d ≤ n / d + 1 := divNearestEven_le_div_succ n d
      _ ≤ n' / d := hlt
      _ ≤ divNearestEven n' d := div_le_divNearestEven n' d
  · have hn := Nat.div_add_mod n d
    have hn' := Nat.div_add_mod n' d
    rw [heq] at hn
    unfold divNearestEven
    rw [heq]
    split <;> split <;> omega

/-! ## Rounding to binary32 -/

/-- The scale at which `roundUnits` rounds `n / d`. -/
def roundScale (n d : Nat) : Nat := (n / d).log2 - 23

/-- The significand `roundUnits` gives `n / d`. -/
def roundSignificand (n d : Nat) : Nat := divNearestEven n (d * 2 ^ roundScale n d)

/-- The magnitude of `n / d` rounded, before a too large one becomes an infinity. -/
def roundMagnitude (n d : Nat) : Nat := roundSignificand n d * 2 ^ roundScale n d

theorem roundUnits_eq_pack (neg : Bool) (n d : Nat) :
    roundUnits neg n d = pack neg (roundSignificand n d) (roundScale n d) := rfl

theorem roundScale_mono {n n' : Nat} (d : Nat) (h : n ≤ n') : roundScale n d ≤ roundScale n' d := by
  have hdiv : n / d ≤ n' / d := Nat.div_le_div_right h
  unfold roundScale
  simp only [Nat.log2_eq_log_two]
  exact Nat.sub_le_sub_right (Nat.log_mono_right hdiv) 23

theorem roundSignificand_le (n : Nat) {d : Nat} (hd : 0 < d) : roundSignificand n d ≤ 2 ^ 24 := by
  have hq : n / d < 2 ^ (24 + roundScale n d) :=
    Nat.lt_log2_self.trans_le (Nat.pow_le_pow_right two_pos (by unfold roundScale; omega))
  have hn : n ≤ 2 ^ 24 * (d * 2 ^ roundScale n d) :=
    calc n ≤ 2 ^ (24 + roundScale n d) * d := ((Nat.div_lt_iff_lt_mul hd).mp hq).le
      _ = 2 ^ 24 * (d * 2 ^ roundScale n d) := by ring
  calc roundSignificand n d ≤ divNearestEven (2 ^ 24 * (d * 2 ^ roundScale n d)) (d * 2 ^ roundScale n d) :=
        divNearestEven_mono _ hn
    _ = 2 ^ 24 := divNearestEven_mul _ (by positivity)

/-- A significand is normalised at every scale but the smallest. -/
theorem le_roundSignificand {n d : Nat} (hd : 0 < d) (h : roundScale n d ≠ 0) : 2 ^ 23 ≤ roundSignificand n d := by
  have hq : 2 ^ (23 + roundScale n d) ≤ n / d := by
    have hlog : 23 + roundScale n d = (n / d).log2 := by unfold roundScale at h ⊢; omega
    rw [hlog]
    exact Nat.log2_self_le (by intro h0; simp [roundScale, h0] at h)
  have hn : 2 ^ 23 * (d * 2 ^ roundScale n d) ≤ n :=
    calc 2 ^ 23 * (d * 2 ^ roundScale n d) = 2 ^ (23 + roundScale n d) * d := by ring
      _ ≤ n := (Nat.le_div_iff_mul_le hd).mp hq
  calc 2 ^ 23 = divNearestEven (2 ^ 23 * (d * 2 ^ roundScale n d)) (d * 2 ^ roundScale n d) :=
        (divNearestEven_mul _ (by positivity)).symm
    _ ≤ roundSignificand n d := divNearestEven_mono _ hn

/-- Rounding keeps the order: at one scale the significands do, and a number of a smaller scale stays at or below the
least number of the next. -/
theorem roundMagnitude_mono {n n' d : Nat} (hd : 0 < d) (h : n ≤ n') : roundMagnitude n d ≤ roundMagnitude n' d := by
  unfold roundMagnitude
  obtain hlt | heq := (roundScale_mono d h).lt_or_eq
  · calc roundSignificand n d * 2 ^ roundScale n d ≤ 2 ^ 24 * 2 ^ roundScale n d :=
          Nat.mul_le_mul_right _ (roundSignificand_le n hd)
      _ = 2 ^ 23 * 2 ^ (roundScale n d + 1) := by ring
      _ ≤ 2 ^ 23 * 2 ^ roundScale n' d := Nat.mul_le_mul_left _ (Nat.pow_le_pow_right two_pos hlt)
      _ ≤ roundSignificand n' d * 2 ^ roundScale n' d :=
          Nat.mul_le_mul_right _ (le_roundSignificand hd (by omega))
  · unfold roundSignificand
    rw [heq]
    exact Nat.mul_le_mul_right _ (divNearestEven_mono _ h)

/-- What `pack` answers: the finite number of magnitude `m · 2^sh`, or an infinity where that is too large. -/
theorem pack_cases (neg : Bool) {m sh : Nat} (hm : m ≤ 2 ^ 24) (hsh : sh ≠ 0 → 2 ^ 23 ≤ m) :
    (∃ e f, pack neg m sh = .fin neg e f ∧ units e f = m * 2 ^ sh)
      ∨ (pack neg m sh = .inf neg ∧ 2 ^ 24 * 2 ^ 253 ≤ m * 2 ^ sh) := by
  obtain rfl | hlt := hm.eq_or_lt
  case inl =>
    by_cases h : sh + 1 + 1 < 255
    · exact .inl ⟨⟨sh + 1 + 1, h⟩, 0, by simp [pack, h], by simp [units]; ring⟩
    · exact .inr ⟨by simp [pack, h], Nat.mul_le_mul_left _ (Nat.pow_le_pow_right two_pos (by omega))⟩
  case inr =>
    have hne : m ≠ 16777216 := by omega
    by_cases hsub : m < 8388608
    · have hsh0 : sh = 0 := by by_contra h; exact absurd (hsh h) (by omega)
      exact .inl ⟨0, ⟨m, hsub⟩, by simp [pack, hne, hsub, Nat.mod_eq_of_lt hsub], by simp [units, hsh0]⟩
    · have hmod : 8388608 + m % 8388608 = m := by omega
      by_cases h : sh + 1 < 255
      · exact .inl ⟨⟨sh + 1, h⟩, ⟨m % 8388608, Nat.mod_lt _ (by omega)⟩, by simp [pack, hne, hsub, h],
          by simp [units, hmod]⟩
      · refine .inr ⟨by simp [pack, hne, hsub, h], ?_⟩
        calc 2 ^ 24 * 2 ^ 253 = 2 ^ 23 * 2 ^ 254 := by ring
          _ ≤ m * 2 ^ sh := Nat.mul_le_mul (by omega) (Nat.pow_le_pow_right two_pos (by omega))

/-- What `roundUnits` answers: the finite number of the rounded magnitude, or an infinity where that is too large. -/
theorem roundUnits_cases (neg : Bool) (n : Nat) {d : Nat} (hd : 0 < d) :
    (∃ e f, roundUnits neg n d = .fin neg e f ∧ units e f = roundMagnitude n d)
      ∨ (roundUnits neg n d = .inf neg ∧ 2 ^ 24 * 2 ^ 253 ≤ roundMagnitude n d) := by
  rw [roundUnits_eq_pack]
  exact pack_cases neg (roundSignificand_le n hd) (le_roundSignificand hd)

theorem roundUnits_isNumber (neg : Bool) (n : Nat) {d : Nat} (hd : 0 < d) :
    b32IsNumber (roundUnits neg n d) = true := by
  obtain ⟨e, f, h, -⟩ | ⟨h, -⟩ := roundUnits_cases neg n hd <;> rw [h] <;> rfl

theorem roundUnits_zero (neg : Bool) (d : Nat) : roundUnits neg 0 d = .fin neg 0 0 := by
  simp [roundUnits, divNearestEven, pack]

/-- The sign does not matter to the key of a rounded zero. -/
theorem b32Key_roundUnits_sign (neg : Bool) {n : Nat} (d : Nat) (h : neg = true → n = 0) :
    b32Key (roundUnits neg n d) = b32Key (roundUnits false n d) := by
  cases neg
  case false => rfl
  case true => rw [h rfl, roundUnits_zero, roundUnits_zero]; rfl

theorem b32Key_roundUnits_mono {n n' d : Nat} (hd : 0 < d) (h : n ≤ n') :
    b32Key (roundUnits false n d) ≤ b32Key (roundUnits false n' d) := by
  have hmag := roundMagnitude_mono hd h
  obtain ⟨e', f', hr', hu'⟩ | ⟨hr', -⟩ := roundUnits_cases false n' hd
  · obtain ⟨e, f, hr, hu⟩ | ⟨-, hbig⟩ := roundUnits_cases false n hd
    · rw [hr, hr', b32Key_fin_pos, b32Key_fin_pos, hu, hu']
      exact_mod_cast hmag
    · exact absurd (hu' ▸ hbig.trans hmag) (units_lt e' f').not_ge
  · obtain ⟨e, f, hr, -⟩ | ⟨hr, -⟩ := roundUnits_cases false n hd
    · rw [hr, hr']
      exact (b32Key_fin_lt_inf false e f).le
    · rw [hr, hr']

theorem b32Key_roundUnits_nonneg (n : Nat) {d : Nat} (hd : 0 < d) : 0 ≤ b32Key (roundUnits false n d) :=
  calc (0 : Int) = b32Key (roundUnits false 0 d) := by rw [roundUnits_zero]; rfl
    _ ≤ b32Key (roundUnits false n d) := b32Key_roundUnits_mono hd n.zero_le

/-! ## Multiplication keeps the order -/

/-- A finite number times one that is not below zero: the product rounded, whichever sign a zero carries. -/
theorem b32Mul_nonneg_key (ec : Fin 255) (fc : Fin 8388608) {neg : Bool} {e : Fin 255} {f : Fin 8388608}
    (h : neg = true → units e f = 0) :
    b32IsNumber (b32Mul (.fin false ec fc) (.fin neg e f)) = true
      ∧ b32Key (b32Mul (.fin false ec fc) (.fin neg e f))
        = b32Key (roundUnits false (units ec fc * units e f) (2 ^ 149)) := by
  have hmul : b32Mul (.fin false ec fc) (.fin neg e f) = roundUnits neg (units ec fc * units e f) (2 ^ 149) := by
    simp [b32Mul]
  rw [hmul]
  exact ⟨roundUnits_isNumber _ _ (Nat.two_pow_pos _), b32Key_roundUnits_sign neg _ fun hneg => by simp [h hneg]⟩

/-- For `0 ≤ x ≤ y`, all finite, `0 ≤ c·x ≤ c·y` in binary32, where `c` carries no minus sign. -/
theorem b32Mul_le_mul (ec : Fin 255) (fc : Fin 8388608) {x y : B32} (h0 : b32Le b32Zero x = true)
    (hxy : b32Le x y = true) (hy : b32IsFinite y = true) :
    b32Le b32Zero (b32Mul (.fin false ec fc) x) = true
      ∧ b32Le (b32Mul (.fin false ec fc) x) (b32Mul (.fin false ec fc) y) = true := by
  obtain ⟨neg, e, f, rfl, hneg⟩ := finite_of_le_finite h0 hxy hy
  obtain ⟨-, hynum, hle⟩ := b32Le_iff.mp hxy
  obtain ⟨neg', e', f', rfl, hneg'⟩ := finite_of_le_finite (b32Le_trans h0 hxy) (b32Le_refl hynum) hy
  rw [b32Key_fin_of_nonneg hneg, b32Key_fin_of_nonneg hneg'] at hle
  obtain ⟨hxnum, hxkey⟩ := b32Mul_nonneg_key ec fc hneg
  obtain ⟨hynum, hykey⟩ := b32Mul_nonneg_key ec fc hneg'
  refine ⟨b32Le_iff.mpr ⟨rfl, hxnum, ?_⟩, b32Le_iff.mpr ⟨hxnum, hynum, ?_⟩⟩
  · rw [hxkey]
    exact b32Key_roundUnits_nonneg _ (Nat.two_pow_pos _)
  · rw [hxkey, hykey]
    exact b32Key_roundUnits_mono (Nat.two_pow_pos _) (Nat.mul_le_mul_left _ (by exact_mod_cast hle))

/-! ## The predicted gain -/

/-- The literal 0.05 is read as the number `13421773 · 2^-28`, above 0.05 (log 2). -/
theorem twentieth_eq : b32OfRatio 1 20 = .fin false 122 5033165 := by decide +kernel

/-- `0.05 · 60`, above 3 as an exact product, is rounded to 3. -/
theorem twentieth_mul_sixty : b32Mul (.fin false 122 5033165) (b32OfInt 60) = b32OfInt 3 := by decide +kernel

/-- The exponent of the predicted gain stays in the range of the named property of pow10 (42_gain_predictor.md R152 a). -/
theorem twentieth_mul_mem {x : B32} (h0 : b32Le b32Zero x = true) (h60 : b32Le x (b32OfInt 60) = true) :
    b32Le b32Zero (b32Mul (b32OfRatio 1 20) x) = true
      ∧ b32Le (b32Mul (b32OfRatio 1 20) x) (b32OfInt 3) = true := by
  rw [twentieth_eq, ← twentieth_mul_sixty]
  exact b32Mul_le_mul 122 5033165 h0 h60 (by decide +kernel)

/-- The named property of pow10 on `[0, 3]` (42_gain_predictor.md R152, log 6). -/
theorem pow10_mem {x : B32} (h0 : b32Le b32Zero x = true) (h3 : b32Le x (b32OfInt 3) = true) :
    b32Le (b32OfInt 1) (pow10 x) = true ∧ b32Le (pow10 x) (b32OfInt 1000) = true := by
  obtain ⟨-, hx, -⟩ := b32Le_iff.mp h0
  unfold pow10
  split
  next hok =>
    have hprop : pow10Ok x (Config.pow10 x) = true := by simpa [hx] using hok
    unfold pow10Ok at hprop
    simp only [h0, h3, Bool.and_true, Bool.not_true, Bool.false_or, Bool.and_eq_true] at hprop
    exact hprop.2
  next => exact ⟨by decide +kernel, by decide +kernel⟩

theorem exec_predgain (s : State) :
    exec .predgain s = .next (s.setLoc { s.loc with gain := corePredgain cfg s.toCoreState }) := rfl

theorem corePredgain_mem (s : CoreState B32) (h : b32IsNumber (predictedDb binary32 cfg.goff s.GP_CUR s.GSTATE) = true) :
    b32Le (b32OfInt 1) (corePredgain cfg s) = true ∧ b32Le (corePredgain cfg s) (b32OfInt 1000) = true := by
  obtain ⟨h0, h60⟩ := clamp_mem (lo := b32Zero) (hi := b32OfInt 60) h (by decide +kernel)
  obtain ⟨hexp0, hexp3⟩ := twentieth_mul_mem h0 h60
  exact pow10_mem hexp0 hexp3

/-- Settles O35: the clamp bounds the log-gain by 60 dB, rounding keeps the order, and `0.05 · 60` is rounded to 3. -/
theorem predictedGainLiesBetweenOneAndAThousand : Obligations.PredictedGainLiesBetweenOneAndAThousand :=
  fun s h => ⟨_, exec_predgain s, corePredgain_mem s.toCoreState h⟩

end Sys2Proof.Machine
end

section
/-! SUPPORT. Exact facts of binary32: a number that fits is its own rounding, so that one times a finite number is that number.
With them, what SHAPEN makes of the unit impulse, and the reset values (10_state.md R52 to R57). -/

namespace Sys2Proof.Machine

/-! ## Exact products -/

/-- A significand that fits is rounded to itself at its own scale. -/
theorem roundUnits_exact (neg : Bool) {m sh d : Nat} (hd : 0 < d) (hm : m < 2 ^ 24) (hsh : sh ≠ 0 → 2 ^ 23 ≤ m) :
    roundUnits neg (m * 2 ^ sh * d) d = pack neg m sh := by
  have scale : roundScale (m * 2 ^ sh * d) d = sh := by
    unfold roundScale
    rw [Nat.mul_div_cancel _ hd, Nat.log2_eq_log_two]
    obtain rfl | hne := eq_or_ne sh 0
    case inl =>
      have := Nat.log_lt_of_lt_pow' (b := 2) (x := 24) (by decide) hm
      simp only [pow_zero, mul_one]
      omega
    case inr =>
      have hlog : Nat.log 2 (m * 2 ^ sh) = 23 + sh :=
        Nat.log_eq_of_pow_le_of_lt_pow
          (by rw [pow_add]; exact Nat.mul_le_mul_right _ (hsh hne))
          (by rw [show 23 + sh + 1 = 24 + sh by omega, pow_add]; exact Nat.mul_lt_mul_of_pos_right hm (by positivity))
      omega
  rw [roundUnits_eq_pack, roundSignificand, scale, show m * 2 ^ sh * d = m * (d * 2 ^ sh) by ring,
    divNearestEven_mul _ (by positivity)]

/-- A finite number is its own rounding. -/
theorem roundUnits_units (neg : Bool) (e : Fin 255) (f : Fin 8388608) {d : Nat} (hd : 0 < d) :
    roundUnits neg (units e f * d) d = .fin neg e f := by
  obtain ⟨e, he⟩ := e
  obtain ⟨f, hf⟩ := f
  cases e with
  | zero =>
    have h := roundUnits_exact neg (m := f) (sh := 0) hd (by omega) (by simp)
    simpa [units, pack, hf, Nat.mod_eq_of_lt hf, show f ≠ 16777216 by omega] using h
  | succ e =>
    have h := roundUnits_exact neg (m := 8388608 + f) (sh := e) hd (by omega) (by omega)
    simpa [units, pack, he, Nat.mod_eq_of_lt hf, show 8388608 + f ≠ 16777216 by omega] using h

theorem units_zero : units 0 0 = 0 := rfl

theorem units_one : units 127 0 = 2 ^ 149 := by decide +kernel

theorem b32OfInt_one : b32OfInt 1 = .fin false 127 0 := by decide +kernel

theorem b32OfInt_neg_one : b32OfInt (-1) = .fin true 127 0 := by decide +kernel

theorem b32Mul_one_fin (neg : Bool) (e : Fin 255) (f : Fin 8388608) :
    b32Mul (b32OfInt 1) (.fin neg e f) = .fin neg e f := by
  rw [b32OfInt_one]
  simpa only [b32Mul, Bool.false_bne, units_one, mul_comm] using roundUnits_units neg e f (Nat.two_pow_pos 149)

theorem b32Mul_zero_fin (neg : Bool) (e : Fin 255) (f : Fin 8388608) :
    b32Mul b32Zero (.fin neg e f) = .fin neg 0 0 := by
  simp [b32Zero, b32Mul, units_zero, roundUnits_zero]

/-- A finite number that is not zero is the rounding of its signed value. -/
theorem roundSigned_signedUnits {neg : Bool} {e : Fin 255} {f : Fin 8388608} (h : units e f ≠ 0) :
    roundSigned (signedUnits neg e f) = .fin neg e f := by
  have sign : decide (signedUnits neg e f < 0) = neg := by
    cases neg
    case false => simp [signedUnits]
    case true =>
      simp only [signedUnits, if_pos, decide_eq_true_eq]
      omega
  have magnitude : (signedUnits neg e f).natAbs = units e f := by
    cases neg <;> simp [signedUnits]
  rw [roundSigned, sign, magnitude]
  simpa only [mul_one] using roundUnits_units neg e f one_pos

/-- Zero plus a finite number is that number, but for the sign of a zero. -/
theorem b32Add_zero_fin (neg : Bool) (e : Fin 255) (f : Fin 8388608) :
    b32Add b32Zero (.fin neg e f) = if units e f = 0 then b32Zero else .fin neg e f := by
  have total : signedUnits false 0 0 + signedUnits neg e f = signedUnits neg e f := Int.zero_add _
  have vanishes : signedUnits neg e f = 0 ↔ units e f = 0 := by cases neg <;> simp [signedUnits]
  simp only [b32Zero, b32Add, total, vanishes, Bool.false_and]
  split
  next => rfl
  next h => exact roundSigned_signedUnits h

/-- The sign of a zero is lost in its square. -/
theorem b32Mul_self_add_zero (neg : Bool) (e : Fin 255) (f : Fin 8388608) :
    b32Mul (b32Add b32Zero (.fin neg e f)) (b32Add b32Zero (.fin neg e f)) = b32Mul (.fin neg e f) (.fin neg e f) := by
  rw [b32Add_zero_fin]
  split
  next h => simp [b32Zero, b32Mul, h, units_zero]
  next => rfl

theorem finite_eq_fin {x : B32} (h : b32IsFinite x = true) : ∃ neg e f, x = .fin neg e f := by
  match x, h with
  | .fin neg e f, _ => exact ⟨neg, e, f, rfl⟩

theorem finiteOr0_isFinite (x : B32) : b32IsFinite (finiteOr0 x) = true := by
  unfold finiteOr0
  split
  next h => exact h
  next => rfl

/-! ## Filtering by the unit impulse (43_filters.md R172) -/

/-- The impulse response of a filter that passes its input on. -/
def unitImpulse : Vec5 B32 := ⟨b32OfInt 1, b32Zero, b32Zero, b32Zero, b32Zero⟩

theorem unitImpulse_get_succ (k : Nat) : unitImpulse.get (k + 1) = b32Zero := by
  match k with
  | 0 | 1 | 2 | _ + 3 => rfl

/-- A sum of zeros of either sign is `+0`. -/
theorem sumFrom_signed_zeros {lo cnt : Nat} {t : Nat → B32} (h : ∀ i, lo ≤ i → i < lo + cnt → ∃ neg, t i = .fin neg 0 0) :
    sumFrom binary32 lo cnt t = b32Zero := by
  induction cnt with
  | zero => rfl
  | succ n ih =>
    obtain ⟨neg, hn⟩ := h (lo + n) (by omega) (by omega)
    rw [sumFrom_succ, ih fun i h1 h2 => h i h1 (by omega), hn]
    exact (b32Add_zero_fin neg 0 0).trans (if_pos rfl)

/-- The unit impulse leaves each sample of a finite codeword as it is, but for the sign of a zero. -/
theorem filterShape_unitImpulse {y : Nat → B32} (hy : ∀ i, b32IsFinite (y i) = true) (k : Nat) :
    filterShape binary32 unitImpulse y k = b32Add b32Zero (y k) := by
  have earlier : sumFrom binary32 0 k (fun i => b32Mul (unitImpulse.get (k - i)) (y i)) = b32Zero := by
    refine sumFrom_signed_zeros fun i _ hi => ?_
    obtain ⟨neg, e, f, hfin⟩ := finite_eq_fin (hy i)
    rw [show k - i = (k - i - 1) + 1 by omega, unitImpulse_get_succ, hfin]
    exact ⟨neg, b32Mul_zero_fin neg e f⟩
  have last : b32Mul (unitImpulse.get (k - k)) (y k) = y k := by
    obtain ⟨neg, e, f, hfin⟩ := finite_eq_fin (hy k)
    rw [Nat.sub_self, hfin]
    exact b32Mul_one_fin neg e f
  calc filterShape binary32 unitImpulse y k
      = b32Add (sumFrom binary32 0 k (fun i => b32Mul (unitImpulse.get (k - i)) (y i)))
          (b32Mul (unitImpulse.get (k - k)) (y k)) := by
        rw [filterShape, sumFrom_succ, Nat.zero_add]; rfl
    _ = b32Add b32Zero (y k) := by rw [earlier, last]

/-- The unit impulse gives every finite codeword its own energy. -/
theorem shapeEnergy_unitImpulse {y : Nat → B32} (hy : ∀ i, b32IsFinite (y i) = true) :
    shapeEnergy binary32 unitImpulse y = sumFrom binary32 0 5 (fun k => b32Mul (y k) (y k)) := by
  refine sumFrom_congr _ fun k _ hk => ?_
  obtain ⟨neg, e, f, hfin⟩ := finite_eq_fin (hy k)
  rw [get_ofFn _ (by omega), filterShape_unitImpulse hy, hfin]
  exact b32Mul_self_add_zero neg e f

/-! ## The reset values (10_state.md R52 to R57) -/

theorem iresp_identitySets : iresp binary32 (identitySet 50) (identitySet 10) (identitySet 10) = unitImpulse := by
  decide +kernel

theorem coreReset_H : (coreReset cfg).H = unitImpulse := iresp_identitySets

theorem coreReset_E : (coreReset cfg).E = shapen binary32 unitImpulse cfg.cbShape := by
  rw [← iresp_identitySets]; rfl

/-- Settles O4: the identity sets pass the impulse on, and it gives each codeword its own energy. -/
theorem resetEnergiesAreTheCodewordEnergies : Obligations.ResetEnergiesAreTheCodewordEnergies := by
  have energies : State.reset.E = shapen binary32 unitImpulse cfg.cbShape := coreReset_E
  refine ⟨coreReset_H, ?_, fun j hj => ?_⟩
  · rw [energies, shapen_length]
  · rw [energies, rd_shapen _ _ _ hj]
    exact shapeEnergy_unitImpulse fun k => finiteOr0_isFinite _

theorem exec_initEnc (s : State) : exec .initEnc s = .next (s.setCore (sessionStart cfg .enc false)) := rfl

theorem exec_initDec (pf : Bool) (s : State) : exec (.initDec pf) s = .next (s.setCore (sessionStart cfg .dec pf)) := rfl

/-- INIT installs the power-on values but for its own three elements (R57). -/
theorem sessionStart_eq (mode : Mode) (pf : Bool) :
    sessionStart cfg mode pf = { State.reset.toCoreState with CTRL := .running, MODE := mode, PF_EN := pf } := rfl

/-- Settles O3: both INIT commands start a session from the power-on values. -/
theorem powerOnDiffersFromInitInControlOnly : Obligations.PowerOnDiffersFromInitInControlOnly := by
  refine ⟨rfl, rfl, rfl, ?_, fun pf => ?_⟩
  · rw [exec_initEnc, sessionStart_eq]; rfl
  · rw [exec_initDec, sessionStart_eq]; rfl

/-- Settles O2: the reset values, the numbers written as their fields. -/
theorem initInstallsTheResetValues : Obligations.InitInstallsTheResetValues := by
  refine ⟨by decide, by decide, by decide, ?_⟩
  intro s pf zero one minusOne unit session
  have installs (mode : Mode) (pfEn : Bool) : sessionStart cfg mode pfEn = session mode pfEn := by
    have impulse : iresp cfg.num cfg.aInit cfg.wzInit cfg.wpInit = unitImpulse := iresp_identitySets
    simp only [sessionStart, coreReset, impulse, session, unit, one, minusOne, ← b32OfInt_one, ← b32OfInt_neg_one]
    rfl
  rw [exec_initEnc, exec_initDec, installs, installs]
  exact ⟨rfl, rfl⟩

end Sys2Proof.Machine
end

section
/-! SUPPORT. The leading one of the coefficient sets (10_state.md R33) through the recursion and the bandwidth expansion, and the
clamp of the synthesis memory (43_filters.md R166, R167). -/

namespace Sys2Proof.Machine

variable {α : Type}

/-! ## Levinson-Durbin keeps the leading one -/

/-- After order `m` the coefficients start with 1, and from order 10 on so do the eleven that LEVDUR_SYN caches
(40_lpc_core.md R117, R119). -/
structure LeadsWithOne (N : NumOps α) (m : Nat) (st : LevState α) : Prop where
  a : rd N st.a 0 = N.one
  a10 : 10 ≤ m → st.a10.length = 11 ∧ rd N st.a10 0 = N.one

theorem levStart_leadsWithOne {N : NumOps α} {R : List α} {M : Nat} {st : LevState α} (h : levStart N R M = some st) :
    LeadsWithOne N 1 st := by
  obtain ⟨-, -, -, rfl⟩ := levStart_some h
  exact ⟨rfl, fun h10 => absurd h10 (by decide)⟩

theorem levStep_leadsWithOne {N : NumOps α} {R : List α} {m : Nat} {st st' : LevState α} (hst : LeadsWithOne N m st)
    (h : levStep N R st (m + 1) = some st') : LeadsWithOne N (m + 1) st' := by
  obtain ⟨-, rfl⟩ := levStep_some h
  have lead (rc : α) : rd N (levUpdate N st.a rc (m + 1)) 0 = N.one := (levUpdate_zero ..).trans hst.a
  refine ⟨lead _, fun hm => ?_⟩
  dsimp only
  split
  next h10 => exact ⟨by rw [levUpdate_length, h10], lead _⟩
  next h10 => exact hst.a10 (by omega)

theorem foldlM_levStep_leadsWithOne {N : NumOps α} {R : List α} {n m : Nat} {st st' : LevState α}
    (hst : LeadsWithOne N m st) (h : (List.range' (m + 1) n).foldlM (levStep N R) st = some st') :
    LeadsWithOne N (m + n) st' := by
  induction n generalizing m st with
  | zero =>
    obtain rfl : st = st' := Option.some.inj h
    exact hst
  | succ n ih =>
    rw [List.range'_succ, List.foldlM_cons] at h
    obtain ⟨st₁, step, rest⟩ := Option.bind_eq_some_iff.mp h
    rw [show m + (n + 1) = m + 1 + n by omega]
    exact ih (levStep_leadsWithOne hst step) rest

theorem levRun_leadsWithOne {N : NumOps α} {R : List α} {M : Nat} {st : LevState α} (hM : 1 ≤ M)
    (h : levRun N R M = some st) : LeadsWithOne N M st := by
  obtain ⟨-, hnone⟩ | ⟨st₀, start, fold⟩ := levRun_cases N R M
  · rw [hnone] at h
    cases h
  · rw [fold] at h
    simpa only [Nat.add_sub_cancel' hM] using foldlM_levStep_leadsWithOne (levStart_leadsWithOne start) h

theorem levdur_leading {N : NumOps α} {R a : List α} {M : Nat} (hM : 1 ≤ M) (h : levdur N R M = some a) :
    rd N a 0 = N.one := by
  obtain ⟨st, run, rfl⟩ := Option.map_eq_some_iff.mp h
  exact (levRun_leadsWithOne hM run).a

theorem levdurSyn_leading {N : NumOps α} {R : List α} {r : LevSyn α} (h : levdurSyn N R = some r) :
    rd N r.a 0 = N.one ∧ r.a10.length = 11 ∧ rd N r.a10 0 = N.one := by
  obtain ⟨st, run, rfl⟩ := Option.map_eq_some_iff.mp h
  have lead := levRun_leadsWithOne (by decide) run
  exact ⟨lead.a, lead.a10 (by decide)⟩

/-- Entry 0 of a decay table is 1, so BWEXP keeps the leading one (40_lpc_core.md R122). -/
theorem bwexp_decayTable_leading {a : List B32} (t : Nat → B32) (M : Nat) (ha : rd binary32 a 0 = binary32.one) :
    rd binary32 (bwexp binary32 a (decayTable t) M) 0 = binary32.one := by
  rw [rd_bwexp _ _ _ (Nat.zero_le _), ha]
  show b32Mul (b32OfInt 1) (b32OfInt 1) = b32OfInt 1
  decide +kernel

/-! ## The clamp -/

theorem b32Lt_eq_false_of_le {a b : B32} (h : b32Le a b = true) : b32Lt b a = false := by
  obtain ⟨-, -, hle⟩ := b32Le_iff.mp h
  exact Bool.eq_false_iff.mpr fun hlt => (b32Lt_iff.mp hlt).2.2.not_ge hle

theorem stateMin_le_zero : b32Le stateMin b32Zero = true := by
  unfold stateMin
  split
  next h => exact (Bool.and_eq_true_iff.mp h).1
  next => exact b32Le_refl rfl

theorem zero_le_stateMax : b32Le b32Zero stateMax = true := by
  unfold stateMax
  split
  next h => exact (Bool.and_eq_true_iff.mp h).1
  next => exact b32Le_refl rfl

theorem inClampRange_of_le {x : B32} (hlo : b32Le stateMin x = true) (hhi : b32Le x stateMax = true) :
    InClampRange cfg x := ⟨b32Lt_eq_false_of_le hlo, b32Lt_eq_false_of_le hhi⟩

theorem inClampRange_zero : InClampRange cfg b32Zero := inClampRange_of_le stateMin_le_zero zero_le_stateMax

/-- What the clamp answers is in the range, a NaN too: it is outside no bound (93 U7). -/
theorem inClampRange_clamp (x : B32) : InClampRange cfg (clamp cfg.num x cfg.stateMin cfg.stateMax) := by
  have bounds : b32Le stateMin stateMax = true := b32Le_trans stateMin_le_zero zero_le_stateMax
  obtain ⟨hmin, hmax, -⟩ := b32Le_iff.mp bounds
  obtain ⟨-, h⟩ | ⟨-, -, h⟩ | ⟨hlo, hhi, h⟩ := clamp_cases cfg.num x cfg.stateMin cfg.stateMax
  · rw [h]; exact inClampRange_of_le (b32Le_refl hmin) bounds
  · rw [h]; exact inClampRange_of_le bounds (b32Le_refl hmax)
  · rw [h]; exact ⟨hlo, hhi⟩

/-! ## What stands in the synthesis memory after MEMUPD -/

theorem mem_drop_of_mem_drop_push {m : List α} {v x : α} {k : Nat} (h : x ∈ (push m v).drop (k + 1)) : x ∈ m.drop k := by
  rw [push, List.drop_take, List.drop_succ_cons] at h
  exact List.mem_of_mem_take h

/-- Five samples of the cascade leave entries of the old memory behind the five new ones. -/
theorem mem_of_mem_drop_cascade {N : NumOps α} {A wz wp : List α} {m : CMem α} {v : Vec5 α} {x : α}
    (h : x ∈ (scan5 (cascadeStep N A wz wp) m v).1.syn.drop 5) : x ∈ m.syn := by
  rw [scan5_fst] at h
  have back {k : Nat} {m : CMem α} {y : α} (h : x ∈ (cascadeStep N A wz wp m y).1.syn.drop (k + 1)) : x ∈ m.syn.drop k :=
    mem_drop_of_mem_drop_push h
  exact back (back (back (back (back h))))

/-- After MEMUPD an entry of the synthesis memory is a clamped value or an entry of before (43_filters.md R166). -/
theorem mem_memupd_syn {N : NumOps α} {A wz wp : List α} {lo hi : α} {m : CMem α} {et : Vec5 α} {x : α}
    (h : x ∈ (memupd N A wz wp lo hi m et).1.syn) : (∃ y, x = clamp N y lo hi) ∨ x ∈ m.syn := by
  obtain new | old := List.mem_append.mp h
  · obtain ⟨y, -, rfl⟩ := List.mem_map.mp new
    exact .inl ⟨y, rfl⟩
  · exact .inr (mem_of_mem_drop_cascade old)

theorem mem_coreMemupd_SYN_MEM {C : Cfg α} {et : Vec5 α} {s : CoreState α} {x : α}
    (h : x ∈ (coreMemupd C et s).1.SYN_MEM) :
    (∃ y, x = clamp C.num y C.stateMin C.stateMax) ∨ x ∈ s.SYN_MEM := mem_memupd_syn h

/-! ## Lengths an operation leaves -/

theorem coreMemupd_SYN_MEM_length (C : Cfg α) (et : Vec5 α) (s : CoreState α) :
    (coreMemupd C et s).1.SYN_MEM.length = s.SYN_MEM.length := memupd_syn_length ..

theorem coreMemupd_WF_ZMEM_length (C : Cfg α) (et : Vec5 α) (s : CoreState α) :
    (coreMemupd C et s).1.WF_ZMEM.length = s.WF_ZMEM.length :=
  memupd_z_length C.num s.A_CUR s.WZ_CUR s.WP_CUR C.stateMin C.stateMax (cascadeMem s) et

theorem coreMemupd_WF_PMEM_length (C : Cfg α) (et : Vec5 α) (s : CoreState α) :
    (coreMemupd C et s).1.WF_PMEM.length = s.WF_PMEM.length :=
  memupd_p_length C.num s.A_CUR s.WZ_CUR s.WP_CUR C.stateMin C.stateMax (cascadeMem s) et

theorem corePwfilt_PWF_ZMEM_length (C : Cfg α) (inp : Vec5 α) (s : CoreState α) :
    (corePwfilt C inp s).1.PWF_ZMEM.length = s.PWF_ZMEM.length := pwfilt_z_length ..

theorem corePwfilt_PWF_PMEM_length (C : Cfg α) (inp : Vec5 α) (s : CoreState α) :
    (corePwfilt C inp s).1.PWF_PMEM.length = s.PWF_PMEM.length := pwfilt_p_length ..

theorem adapterHwin_SB_length (C : Cfg α) (ad : Adapter) (s : CoreState α) (new : List α) :
    (adapterHwin C ad s new).SB.length = adapterOrder ad + frameSizeOf ad + spanOf C ad := by
  cases ad <;> exact hwin_SB_length ..

theorem adapterHwin_REXP_length (C : Cfg α) (ad : Adapter) (s : CoreState α) (new : List α) :
    (adapterHwin C ad s new).REXP.length = adapterOrder ad + 1 := by
  cases ad <;> exact hwin_REXP_length ..

end Sys2Proof.Machine
end

section
/-! SUPPORT. The invariant of the state (10_state.md R33, R59, 43_filters.md R167, 46_postfilter.md R235): it holds at power-on,
every operation on the spec's elements keeps it, so every instruction does, and so every step. -/

namespace Sys2Proof.Machine

/-- The invariant, said of the spec's elements alone. -/
structure CoreInv (s : CoreState B32) : Prop where
  sized : s.Sized cfg
  leadingOnes : s.LeadingOnes cfg.num
  clamped : ∀ x ∈ s.SYN_MEM, InClampRange cfg x
  postfilter : PfState.Wf s.PF_STATE

theorem inv_iff {s : State} : s.Inv ↔ CoreInv s.toCoreState :=
  ⟨fun ⟨sized, ones, clamped, pf⟩ => ⟨sized, ones, clamped, pf⟩,
    fun ⟨sized, ones, clamped, pf⟩ => ⟨sized, ones, clamped, pf⟩⟩

/-! ## Power-on and the start of a session -/

theorem coreReset_sized : (coreReset cfg).Sized cfg where
  rings := coreReset_ringsWf cfg
  aCur := rfl
  aPend := rfl
  wzCur := rfl
  wpCur := rfl
  wzPend := rfl
  wpPend := rfl
  gpCur := rfl
  gpPend := rfl
  e := shapen_length _ _ _
  gstate := rfl
  synMem := rfl
  wfZmem := rfl
  wfPmem := rfl
  pwfZmem := rfl
  pwfPmem := rfl
  pfA10 := rfl
  sbSyn := List.length_replicate
  sbW := List.length_replicate
  sbG := List.length_replicate
  rexpSyn := rfl
  rexpW := rfl
  rexpG := rfl

theorem coreReset_inv : CoreInv (coreReset cfg) where
  sized := coreReset_sized
  leadingOnes := ⟨rfl, rfl, rfl, rfl, rfl, rfl, rfl, rfl, rfl⟩
  clamped x hx := by
    rw [List.eq_of_mem_replicate hx]
    exact inClampRange_zero
  postfilter := ⟨pfInit_period.1, pfInit_period.2, pfInit_z_length, pfInit_p_length⟩

/-- Settles O53: power-on is the reset state of the spec's elements. -/
theorem powerOnMeetsTheInvariant : Obligations.PowerOnMeetsTheInvariant := inv_iff.mpr coreReset_inv

/-! ## Operations on the spec's elements -/

section
variable {s : CoreState B32} (h : CoreInv s)
include h

/-- The invariant does not speak of the control elements and counters. -/
theorem control_keeps_inv (ctrl : Ctrl) (mode : Mode) (pf : Bool) (phase : Phase) (vx : Fin 12) (err : ErrCode) :
    CoreInv { s with CTRL := ctrl, MODE := mode, PF_EN := pf, PHASE := phase, VX := vx, ERR := err } :=
  ⟨{ h.sized with }, { h.leadingOnes with }, h.clamped, h.postfilter⟩

theorem raiseFatal_keeps_inv (code : ErrCode) : CoreInv (raiseFatal code s) := control_keeps_inv h ..

theorem refuseCommand_keeps_inv (code : ErrCode) : CoreInv (refuseCommand code s) := control_keeps_inv h ..

theorem stepEnd_keeps_inv : CoreInv (stepEnd s) := control_keeps_inv h ..

theorem ringWrite_keeps_inv (q : SpeechRing) (v : Vec5 B32) : CoreInv (ringWrite s q v) := by
  have rings := ringWrite_keeps_ringsWf s q v h.sized.rings
  cases q <;> exact ⟨{ h.sized with rings := rings }, { h.leadingOnes with }, h.clamped, h.postfilter⟩

theorem storeHwin_keeps_inv (ad : Adapter) (new : List B32) :
    CoreInv (storeHwin ad s (adapterHwin cfg ad s new)) := by
  have history := adapterHwin_SB_length cfg ad s new
  have recursivePart := adapterHwin_REXP_length cfg ad s new
  cases ad with
  | syn =>
    exact ⟨{ h.sized with sbSyn := history, rexpSyn := recursivePart }, { h.leadingOnes with }, h.clamped, h.postfilter⟩
  | wgt =>
    exact ⟨{ h.sized with sbW := history, rexpW := recursivePart }, { h.leadingOnes with }, h.clamped, h.postfilter⟩
  | gain =>
    exact ⟨{ h.sized with sbG := history, rexpG := recursivePart }, { h.leadingOnes with }, h.clamped, h.postfilter⟩

theorem storeLevSyn_keeps_inv {R : List B32} {r : LevSyn B32} (hr : levdurSyn cfg.num R = some r) :
    CoreInv (storeLevSyn s r) :=
  have ⟨_, length, lead⟩ := levdurSyn_leading hr
  ⟨{ h.sized with pfA10 := length }, { h.leadingOnes with pfA10 := lead }, h.clamped, h.postfilter⟩

theorem setPendingSyn_keeps_inv {a : List B32} (ha : rd binary32 a 0 = binary32.one) :
    CoreInv (setPendingSyn s (bwexp cfg.num a cfg.bwSyn 50)) :=
  ⟨{ h.sized with aPend := bwexp_length .. }, { h.leadingOnes with aPend := bwexp_decayTable_leading _ _ ha }, h.clamped,
    h.postfilter⟩

theorem setPendingGain_keeps_inv {a : List B32} (ha : rd binary32 a 0 = binary32.one) :
    CoreInv (setPendingGain s (bwexp cfg.num a cfg.bwG 10)) :=
  ⟨{ h.sized with gpPend := bwexp_length .. }, { h.leadingOnes with gpPend := bwexp_decayTable_leading _ _ ha }, h.clamped,
    h.postfilter⟩

theorem setPendingWgt_keeps_inv {a : List B32} (ha : rd binary32 a 0 = binary32.one) :
    CoreInv (setPendingWgt s (bwexp cfg.num a cfg.bwWz 10) (bwexp cfg.num a cfg.bwWp 10)) :=
  ⟨{ h.sized with wzPend := bwexp_length .., wpPend := bwexp_length .. },
    { h.leadingOnes with wzPend := bwexp_decayTable_leading _ _ ha, wpPend := bwexp_decayTable_leading _ _ ha },
    h.clamped, h.postfilter⟩

theorem commitSyn_keeps_inv : CoreInv (commitSyn s) := by
  unfold commitSyn
  split
  next =>
    exact ⟨{ h.sized with aCur := h.sized.aPend }, { h.leadingOnes with aCur := h.leadingOnes.aPend }, h.clamped,
      h.postfilter⟩
  next => exact h

theorem commitGain_keeps_inv : CoreInv (commitGain s) := by
  unfold commitGain
  split
  next =>
    exact ⟨{ h.sized with gpCur := h.sized.gpPend }, { h.leadingOnes with gpCur := h.leadingOnes.gpPend }, h.clamped,
      h.postfilter⟩
  next => exact h

theorem commitWgt_keeps_inv : CoreInv (commitWgt s) := by
  unfold commitWgt
  split
  next =>
    exact ⟨{ h.sized with wzCur := h.sized.wzPend, wpCur := h.sized.wpPend },
      { h.leadingOnes with wzCur := h.leadingOnes.wzPend, wpCur := h.leadingOnes.wpPend }, h.clamped, h.postfilter⟩
  next => exact h

theorem coreIresp_keeps_inv : CoreInv (coreIresp cfg s) :=
  ⟨{ h.sized with }, { h.leadingOnes with }, h.clamped, h.postfilter⟩

theorem coreShapen_keeps_inv : CoreInv (coreShapen cfg s) :=
  ⟨{ h.sized with e := shapen_length .. }, { h.leadingOnes with }, h.clamped, h.postfilter⟩

theorem coreUpdgain_keeps_inv (et : Vec5 B32) : CoreInv (coreUpdgain cfg et s) :=
  ⟨{ h.sized with
      rings := coreUpdgain_keeps_ringsWf cfg et s h.sized.rings
      gstate := (push_length ..).trans h.sized.gstate },
    { h.leadingOnes with }, h.clamped, h.postfilter⟩

/-- New memories of the input path. -/
theorem inputMemory_keeps_inv {z p : List B32} (hz : z.length = 10) (hp : p.length = 10) :
    CoreInv { s with PWF_ZMEM := z, PWF_PMEM := p } :=
  ⟨{ h.sized with pwfZmem := hz, pwfPmem := hp }, { h.leadingOnes with }, h.clamped, h.postfilter⟩

theorem corePwfilt_keeps_inv (inp : Vec5 B32) : CoreInv (corePwfilt cfg inp s).1 :=
  inputMemory_keeps_inv h ((corePwfilt_PWF_ZMEM_length cfg inp s).trans h.sized.pwfZmem)
    ((corePwfilt_PWF_PMEM_length cfg inp s).trans h.sized.pwfPmem)

/-- New memories of the cascade. -/
theorem cascadeMemory_keeps_inv {syn z p : List B32} (hsyn : syn.length = 50) (hz : z.length = 10) (hp : p.length = 10)
    (clamped : ∀ x ∈ syn, InClampRange cfg x) : CoreInv { s with SYN_MEM := syn, WF_ZMEM := z, WF_PMEM := p } :=
  ⟨{ h.sized with synMem := hsyn, wfZmem := hz, wfPmem := hp }, { h.leadingOnes with }, clamped, h.postfilter⟩

theorem coreMemupd_keeps_inv (et : Vec5 B32) : CoreInv (coreMemupd cfg et s).1 := by
  have clamped : ∀ x ∈ (coreMemupd cfg et s).1.SYN_MEM, InClampRange cfg x := fun x hx => by
    obtain ⟨y, rfl⟩ | old := mem_coreMemupd_SYN_MEM hx
    · exact inClampRange_clamp y
    · exact h.clamped x old
  exact cascadeMemory_keeps_inv h ((coreMemupd_SYN_MEM_length cfg et s).trans h.sized.synMem)
    ((coreMemupd_WF_ZMEM_length cfg et s).trans h.sized.wfZmem)
    ((coreMemupd_WF_PMEM_length cfg et s).trans h.sized.wfPmem) clamped

theorem corePostfilt_keeps_inv (sq : Vec5 B32) : CoreInv (corePostfilt cfg sq s).1 where
  sized := { h.sized with }
  leadingOnes := { h.leadingOnes with }
  clamped := h.clamped
  postfilter :=
    have ⟨least, greatest⟩ := postfilterStep_period ..
    ⟨least, greatest, (postfilterStep_z_length ..).trans h.postfilter.z, (postfilterStep_p_length ..).trans h.postfilter.p⟩

/-! ## Adapters, the schedule and the vector steps -/

theorem adaptSyn_keeps_inv : CoreInv (adaptSyn cfg s) := by
  have stored := storeHwin_keeps_inv h .syn (ringRead cfg.num s (.speech .qsyn) 20)
  obtain ⟨-, fails⟩ | ⟨r, hr, succeeds⟩ := adaptSyn_cases cfg s
  · rw [fails]
    exact stored
  · rw [succeeds]
    exact setPendingSyn_keeps_inv (storeLevSyn_keeps_inv stored hr) (levdurSyn_leading hr).1

theorem adaptGain_keeps_inv : CoreInv (adaptGain cfg s) := by
  have stored := storeHwin_keeps_inv h .gain (ringRead cfg.num s .qlg 4)
  obtain ⟨-, fails⟩ | ⟨a, ha, succeeds⟩ := adaptGain_cases cfg s
  · rw [fails]
    exact stored
  · rw [succeeds]
    exact setPendingGain_keeps_inv stored (levdur_leading (by decide) ha)

theorem adaptWgt_keeps_inv : CoreInv (adaptWgt cfg s) := by
  have stored := storeHwin_keeps_inv h .wgt (ringRead cfg.num s (weightingSource s.MODE) 20)
  obtain ⟨-, fails⟩ | ⟨a, ha, succeeds⟩ := adaptWgt_cases cfg s
  · rw [fails]
    exact stored
  · rw [succeeds]
    exact setPendingWgt_keeps_inv stored (levdur_leading (by decide) ha)

theorem sched_keeps_inv : CoreInv (sched cfg s) := by
  obtain ⟨-, p1⟩ | ⟨-, p2⟩ | ⟨-, p3⟩ | ⟨-, p4⟩ := sched_cases cfg s
  · rw [p1]
    exact adaptSyn_keeps_inv h
  · rw [p2]
    exact commitGain_keeps_inv (adaptGain_keeps_inv h)
  · rw [p3]
    have committed := commitWgt_keeps_inv (adaptWgt_keeps_inv (commitSyn_keeps_inv h))
    exact coreShapen_keeps_inv (coreIresp_keeps_inv committed)
  · rw [p4]
    exact h

theorem encodeVector_keeps_inv (sv : Vec5 B32) : CoreInv (encodeVector cfg sv s).core := by
  have weighted := corePwfilt_keeps_inv (ringWrite_keeps_inv (sched_keeps_inv h) .qin sv) sv
  have excited (et : Vec5 B32) := coreUpdgain_keeps_inv (ringWrite_keeps_inv weighted .qexc et) et
  exact stepEnd_keeps_inv (ringWrite_keeps_inv (coreMemupd_keeps_inv (excited _) _) .qsyn _)

theorem decodeVector_keeps_inv (idx : BitVec 10) : CoreInv (decodeVector cfg idx s).core := by
  have excited (et : Vec5 B32) := coreUpdgain_keeps_inv (ringWrite_keeps_inv (sched_keeps_inv h) .qexc et) et
  have synthesized (et sq : Vec5 B32) := ringWrite_keeps_inv (coreMemupd_keeps_inv (excited et) et) .qsyn sq
  simp only [decodeVector]
  split
  next => exact stepEnd_keeps_inv (ringWrite_keeps_inv (corePostfilt_keeps_inv (synthesized _ _) _) .qin _)
  next => exact stepEnd_keeps_inv (ringWrite_keeps_inv (synthesized _ _) .qin _)

end

/-! ## Instructions and steps -/

/-- What an answer keeps of a state: a next state meets the invariant, and its bench is as it was. -/
def AnswerKeeps (s : State) (answer : Answer) : Prop :=
  ∀ t, answer = .next t → CoreInv t.toCoreState ∧ t.bench = s.bench

theorem answerKeeps_next {s t : State} (h : CoreInv t.toCoreState) (hb : t.bench = s.bench) : AnswerKeeps s (.next t) := by
  rintro _ ⟨⟩
  exact ⟨h, hb⟩

theorem setCore_answerKeeps (s : State) {c : CoreState B32} (hc : CoreInv c) : AnswerKeeps s (.next (s.setCore c)) :=
  answerKeeps_next hc rfl

theorem setCore_setLoc_answerKeeps (s : State) {c : CoreState B32} (hc : CoreInv c) (l : Locals) :
    AnswerKeeps s (.next ((s.setCore c).setLoc l)) := answerKeeps_next hc rfl

section
variable {s : State} (h : CoreInv s.toCoreState)
include h

theorem setLoc_answerKeeps (l : Locals) : AnswerKeeps s (.next (s.setLoc l)) := answerKeeps_next h rfl

theorem execFinish_keeps : AnswerKeeps s (execFinish s) := by
  obtain ⟨-, ends⟩ | ⟨-, refused⟩ := execFinish_cases s
  · rw [ends]
    exact setCore_answerKeeps s (control_keeps_inv h ..)
  · rw [refused]
    exact setCore_answerKeeps s (refuseCommand_keeps_inv h _)

theorem execEncVec_keeps : AnswerKeeps s (execEncVec s) := by
  obtain ⟨-, refused⟩ | ⟨-, -, waits⟩ | ⟨sv, rest, -, -, runs⟩ := execEncVec_cases s
  · rw [refused]
    exact setCore_answerKeeps s (refuseCommand_keeps_inv h _)
  · rw [waits]
    exact answerKeeps_next h rfl
  · rw [runs]
    exact answerKeeps_next (encodeVector_keeps_inv h sv) rfl

theorem execDecVec_keeps : AnswerKeeps s (execDecVec s) := by
  obtain ⟨-, refused⟩ | ⟨-, -, ends⟩ | ⟨-, -, truncated⟩ | ⟨rest, -, -, outOfRange⟩ | ⟨idx, rest, -, -, runs⟩ :=
    execDecVec_cases s
  · rw [refused]
    exact setCore_answerKeeps s (refuseCommand_keeps_inv h _)
  · rw [ends]
    exact setCore_answerKeeps s (control_keeps_inv h ..)
  · rw [truncated]
    exact answerKeeps_next (raiseFatal_keeps_inv h _) rfl
  · rw [outOfRange]
    exact answerKeeps_next (raiseFatal_keeps_inv h _) rfl
  · rw [runs]
    exact answerKeeps_next (decodeVector_keeps_inv h idx) rfl

theorem execLevdur_keeps : AnswerKeeps s (execLevdur s) := by
  unfold execLevdur
  split <;> exact setLoc_answerKeeps h _

theorem execLevdurSyn_keeps : AnswerKeeps s (execLevdurSyn s) := by
  unfold execLevdurSyn
  split
  next r hr => exact setCore_setLoc_answerKeeps s (storeLevSyn_keeps_inv h hr) _
  next => exact setLoc_answerKeeps h _

theorem exec_keeps (i : Instr) : AnswerKeeps s (exec i s) := by
  cases i with
  | initEnc | initDec => exact setCore_answerKeeps s (control_keeps_inv coreReset_inv ..)
  | encVec => exact execEncVec_keeps h
  | decVec => exact execDecVec_keeps h
  | finish => exact execFinish_keeps h
  | hwin => exact setCore_setLoc_answerKeeps s (storeHwin_keeps_inv h _ _) _
  | levdur => exact execLevdur_keeps h
  | levdurSyn => exact execLevdurSyn_keeps h
  | adaptSyn => exact setCore_answerKeeps s (adaptSyn_keeps_inv h)
  | adaptGain => exact setCore_answerKeeps s (adaptGain_keeps_inv h)
  | adaptWgt => exact setCore_answerKeeps s (adaptWgt_keeps_inv h)
  | commitSyn => exact setCore_answerKeeps s (commitSyn_keeps_inv h)
  | commitGain => exact setCore_answerKeeps s (commitGain_keeps_inv h)
  | commitWgt => exact setCore_answerKeeps s (commitWgt_keeps_inv h)
  | sched => exact setCore_answerKeeps s (sched_keeps_inv h)
  | updgain => exact setCore_answerKeeps s (coreUpdgain_keeps_inv h _)
  | pwfilt => exact setCore_setLoc_answerKeeps s (corePwfilt_keeps_inv h _) _
  | memupd => exact setCore_setLoc_answerKeeps s (coreMemupd_keeps_inv h _) _
  | iresp => exact setCore_answerKeeps s (coreIresp_keeps_inv h)
  | shapen => exact setCore_answerKeeps s (coreShapen_keeps_inv h)
  | ringwr => exact setCore_answerKeeps s (ringWrite_keeps_inv h _ _)
  | postfilt => exact setCore_setLoc_answerKeeps s (corePostfilt_keeps_inv h _) _
  | nop => exact answerKeeps_next h rfl
  -- These write latches alone.
  | index | bwexp | predgain | zresp | trevconv | vqsearch | excite | ringrd | pcmIn | pcmOut =>
    exact setLoc_answerKeeps h _

theorem rejectWord_keeps (r : Reject) : AnswerKeeps s (rejectWord r s) := by
  obtain ⟨-, refused⟩ | ⟨-, -, fatal⟩ | ⟨-, -, refused⟩ | ⟨-, unassigned⟩ := rejectWord_cases r s
  · rw [refused]
    exact setCore_answerKeeps s (refuseCommand_keeps_inv h _)
  · rw [fatal]
    exact setCore_answerKeeps s (raiseFatal_keeps_inv h _)
  · rw [refused]
    exact setCore_answerKeeps s (refuseCommand_keeps_inv h _)
  · rw [unassigned]
    rintro _ ⟨⟩

theorem runWord_keeps (p : CodeWord) : AnswerKeeps s (runWord p s) := by
  obtain ⟨i, -, runs⟩ | ⟨r, -, rejects⟩ := runWord_cases p s
  · rw [runs]
    exact exec_keeps h i
  · rw [rejects]
    exact rejectWord_keeps h r

end

/-- Settles O54: a step holds all state or runs one word with the bench empty, and every word keeps the invariant and the
bench. -/
theorem everyStepKeepsTheInvariant : Obligations.EveryStepKeepsTheInvariant := by
  intro s t hs hstep
  have h : CoreInv s.toCoreState := inv_iff.mp hs
  rw [inv_iff]
  obtain ⟨p, -, bench⟩ | ⟨hb, -, idle⟩ | ⟨w, rest, hb, -, command⟩ := step_cases s
  · exact runWord_keeps (s := { s with bench := none }) h p t (bench ▸ hstep)
  · exact answerKeeps_next (s := s) h rfl t (idle ▸ hstep) |>.imp_right (·.trans hb)
  · exact runWord_keeps (s := { s with CMD := rest }) h (.cw w) t (command ▸ hstep) |>.imp_right (·.trans hb)

end Sys2Proof.Machine
end

section
/-! SUPPORT. The rings as the instructions use them: the window RINGRD answers, the slot RINGWR writes
(20_memory.md R66, R67), and what ENC_VEC takes from DIN, puts on DOUT and leaves in QIN (45_controller.md R208). -/

namespace Sys2Proof.Machine

variable {α : Type}

/-! ## RINGRD -/

theorem exec_ringrd (s : State) :
    exec .ringrd s = .next { s with loc := { s.loc with
      new := ringRead binary32 s.toCoreState s.loc.ring s.loc.len } } := rfl

theorem windowIndex_speech (q : SpeechRing) (vx : Fin 12) (len n : Nat) :
    windowIndex (.speech q) vx len n = (((5 * vx.val : Int) - len + n) % 60).toNat := rfl

theorem windowIndex_qlg (vx : Fin 12) (len n : Nat) :
    windowIndex .qlg vx len n = (((vx.val : Int) - len + n) % 12).toNat := rfl

/-- Settles O19: RINGRD answers the tabulated window, and its index is that of the rule on both kinds of ring. -/
theorem ringrdReadsTheWindow : Obligations.RingrdReadsTheWindow := by
  refine ⟨rfl, fun s _ => ⟨_, exec_ringrd s, ringRead_length .., fun n hn => ⟨fun q speech => ?_, fun qlg => ?_⟩⟩⟩
  · rw [rd_ringRead _ _ _ hn, speech, windowIndex_speech]
  · rw [rd_ringRead _ _ _ hn, qlg, windowIndex_qlg]
    rfl

/-! ## RINGWR -/

theorem exec_ringwr (s : State) :
    exec .ringwr s = .next (s.setCore (ringWrite s.toCoreState s.loc.wring s.loc.v)) := rfl

@[simp] theorem ringWrite_qin_QIN (v : Vec5 α) (s : CoreState α) :
    (ringWrite s .qin v).QIN = writeSlot s.QIN s.VX v := rfl

@[simp] theorem ringWrite_qexc_QIN (v : Vec5 α) (s : CoreState α) : (ringWrite s .qexc v).QIN = s.QIN := rfl

@[simp] theorem ringWrite_qsyn_QIN (v : Vec5 α) (s : CoreState α) : (ringWrite s .qsyn v).QIN = s.QIN := rfl

/-- Settles O20: the new ring is the old one with slot VX written, and the core has no other new element. -/
theorem ringwrWritesItsSlotOnly : Obligations.RingwrWritesItsSlotOnly := by
  rintro s q rfl hlen
  refine ⟨_, writeSlot (ringOf s.toCoreState (.speech s.loc.wring)) s.VX s.loc.v, exec_ringwr s,
    fun qin => ?_, fun qexc => ?_, fun qsyn => ?_, (writeSlot_length ..).trans hlen,
    fun _ hk => rd_writeSlot_inside _ _ _ _ hlen hk, fun _ hi => rd_writeSlot_outside _ _ _ _ hi⟩
  · rw [qin]; rfl
  · rw [qexc]; rfl
  · rw [qsyn]; rfl

/-! ## ENC_VEC -/

theorem exec_encVec (s : State) : exec .encVec s = execEncVec s := rfl

theorem takeVector_toList_append (v : Vec5 α) (rest : List α) : takeVector (v.toList ++ rest) = some (v, rest) := rfl

theorem takeVector_eq_none {l : List α} (h : l.length < 5) : takeVector l = none := by
  match l with
  | [] | [_] | [_, _] | [_, _, _] | [_, _, _, _] => rfl
  | _ :: _ :: _ :: _ :: _ :: rest =>
    simp only [List.length_cons] at h
    omega

theorem execEncVec_waits {s : State} (ready : vectorReady .enc s.toCoreState = true)
    (few : takeVector s.DIN_SMP = none) : execEncVec s = .next { s with CMD := encVecWord :: s.CMD } := by
  rw [execEncVec, if_pos ready, few]

theorem execEncVec_runs {s : State} {sv : Vec5 B32} {rest : List B32} (ready : vectorReady .enc s.toCoreState = true)
    (taken : takeVector s.DIN_SMP = some (sv, rest)) :
    execEncVec s = .next { s with
      toCoreState := (encodeVector cfg sv s.toCoreState).core, DIN_SMP := rest
      DOUT_IDX := s.DOUT_IDX ++ indexBytes (encodeVector cfg sv s.toCoreState).idx } := by
  rw [execEncVec, if_pos ready, taken]

/-- Settles O9: fewer than five samples give no vector to take. -/
theorem encVecWaitsForItsFiveSamples : Obligations.EncVecWaitsForItsFiveSamples := by
  intro s running enc few
  rw [exec_encVec, execEncVec_waits ((vectorReady_iff ..).mpr ⟨running, enc⟩) (takeVector_eq_none few)]
  rfl

/-- An index has ten bits, so two at most stand in the high byte of its word (30_encoding.md R91, R95). -/
theorem indexBytes_cases (idx : BitVec 10) : ∃ b0 b1, indexBytes idx = [b0, b1] ∧ b0.toNat ≤ 3 := by
  refine ⟨_, _, rfl, ?_⟩
  simp only [wordBytes, BitVec.extractLsb'_toNat, BitVec.toNat_setWidth, Nat.shiftRight_eq_div_pow]
  omega

theorem nextPhase_toNat (p : Phase) : (nextPhase p).toNat = p.toNat % 4 + 1 := by cases p <;> rfl

/-- Of the three rings ENC_VEC writes, the input ring gets the input vector. -/
theorem encodeVector_QIN (C : Cfg α) (sv : Vec5 α) (s : CoreState α) :
    (encodeVector C sv s).core.QIN = writeSlot s.QIN s.VX sv := by simp [encodeVector]

/-- Settles O8: the ports from the answer of ENC_VEC, the core from what a vector step leaves. -/
theorem encVecEmitsOneIndexWord : Obligations.EncVecEmitsOneIndexWord := by
  intro s sv rest running enc din hlen
  have ready : vectorReady .enc s.toCoreState = true := (vectorReady_iff ..).mpr ⟨running, enc⟩
  have taken : takeVector s.DIN_SMP = some (sv, rest) := din ▸ takeVector_toList_append sv rest
  obtain ⟨b0, b1, bytes, high⟩ := indexBytes_cases (encodeVector cfg sv s.toCoreState).idx
  obtain ⟨vx, phase⟩ := encodeVector_counters cfg sv s.toCoreState
  obtain ⟨ctrl, mode, pfEn, err, pfState⟩ := encodeVector_control cfg sv s.toCoreState
  have qin := encodeVector_QIN cfg sv s.toCoreState
  refine ⟨_, b0, b1, execEncVec_runs ready taken, congrArg _ bytes, high, rfl, congrArg Fin.val vx, ?_,
    ctrl.trans running, mode.trans enc, pfEn, err, pfState, rfl, rfl, rfl, rfl, rfl, fun k hk => ?_, fun i hi => ?_⟩
  · exact (congrArg Phase.toNat phase).trans (nextPhase_toNat _)
  · rw [qin, rd_writeSlot_inside _ _ _ _ hlen hk]
  · rw [qin, rd_writeSlot_outside _ _ _ _ hi]

end Sys2Proof.Machine
end

section
/-! SUPPORT. The three word formats (30_encoding.md R88): what the fields of a word say of it, when each decoder answers an
instruction, and that encoding and decoding undo each other. -/

namespace Sys2Proof

/-! ## Command words (30_encoding.md R92, R97, R98) -/

/-- A command word is its opcode over its argument (R92). -/
theorem command_toNat (w : HalfWord) : w.toNat = (opcField w).toNat * 4096 + (argField w).toNat := by
  have := w.isLt
  simp only [opcField, argField, BitVec.extractLsb'_toNat, Nat.shiftRight_eq_div_pow]
  omega

theorem plainCommand_eq_ok_iff {arg : BitVec 12} {i j : Instr} : plainCommand arg j = .ok i ↔ arg = 0#12 ∧ j = i := by
  unfold plainCommand
  split <;> simp [*]

/-- INIT_DEC's upper eleven argument bits are zero, so its argument is its lowest bit (R97). -/
theorem initDecCommand_eq_ok {arg : BitVec 12} {i : Instr} (h : initDecCommand arg = .ok i) :
    ∃ pf : Bool, arg.toNat = pf.toNat ∧ .initDec pf = i := by
  unfold initDecCommand at h
  split at h
  next zero =>
    have upper : arg.toNat / 2 % 2 ^ 11 = 0 := by
      simpa [BitVec.extractLsb'_toNat, Nat.shiftRight_eq_div_pow] using congrArg BitVec.toNat zero
    have lowest : (arg.getLsbD 0).toNat = arg.toNat % 2 := by
      rw [BitVec.getLsbD, Nat.toNat_testBit, pow_zero, Nat.div_one]
    exact ⟨arg.getLsbD 0, by omega, Except.ok.inj h⟩
  next => cases h

theorem encode_initDec (pf : Bool) : encode (.initDec pf) = .cw (BitVec.ofNat 16 (0x2000 + pf.toNat)) := by
  cases pf <;> rfl

/-- The six rows of R98. -/
theorem encode_of_decodeCommand {w : HalfWord} {i : Instr} (h : decodeCommand w = .ok i) :
    i.WellFormed ∧ encode i = .cw w := by
  have fields := command_toNat w
  have word {n : Nat} (hn : w.toNat = n) : CodeWord.cw (BitVec.ofNat 16 n) = .cw w := by simp [← hn]
  unfold decodeCommand at h
  split at h
  case h_3 opc =>
    obtain ⟨pf, arg, rfl⟩ := initDecCommand_eq_ok h
    exact ⟨rfl, (encode_initDec pf).trans (word (by omega))⟩
  case h_7 => cases h
  all_goals
    next opc =>
    obtain ⟨arg, rfl⟩ := plainCommand_eq_ok_iff.mp h
    rw [opc, arg] at fields
    exact ⟨rfl, word fields⟩

/-! ## Index words (30_encoding.md R94, R95, R99) -/

theorem wellFormed_index_iff {shape gain : Nat} : (Instr.index shape gain).WellFormed ↔ shape < 128 ∧ gain < 8 := by
  simp only [Instr.WellFormed, Instr.illFormed]
  split
  · simp; omega
  · split <;> simp <;> omega

theorem assembleIndex_toNat (b0 b1 : Byte) : (assembleIndex b0 b1).toNat = b0.toNat * 256 + b1.toNat := by
  have h0 := b0.isLt
  have h1 := b1.isLt
  rw [assembleIndex, BitVec.toNat_or, BitVec.toNat_shiftLeft, BitVec.toNat_setWidth, BitVec.toNat_setWidth,
    Nat.mod_eq_of_lt (by omega), Nat.mod_eq_of_lt (a := b1.toNat) (by omega), Nat.shiftLeft_eq,
    Nat.mod_eq_of_lt (by omega), ← Nat.shiftLeft_eq, ← Nat.shiftLeft_add_eq_or_of_lt h1, Nat.shiftLeft_eq]

theorem wordBytes_toNat (w : HalfWord) :
    (wordBytes w).1.toNat = w.toNat / 256 ∧ (wordBytes w).2.toNat = w.toNat % 256 := by
  have := w.isLt
  simp only [wordBytes, BitVec.extractLsb'_toNat, Nat.shiftRight_eq_div_pow]
  omega

/-- Splitting an assembled word gives its bytes, in wire order. -/
theorem wordBytes_assembleIndex (b0 b1 : Byte) : wordBytes (assembleIndex b0 b1) = (b0, b1) := by
  obtain ⟨high, low⟩ := wordBytes_toNat (assembleIndex b0 b1)
  have word := assembleIndex_toNat b0 b1
  have := b1.isLt
  have high_eq : (wordBytes (assembleIndex b0 b1)).1 = b0 := BitVec.eq_of_toNat_eq (by omega)
  have low_eq : (wordBytes (assembleIndex b0 b1)).2 = b1 := BitVec.eq_of_toNat_eq (by omega)
  exact Prod.ext high_eq low_eq

/-- Assembling the two bytes of a word gives the word. -/
theorem assembleIndex_wordBytes (w : HalfWord) : assembleIndex (wordBytes w).1 (wordBytes w).2 = w := by
  obtain ⟨high, low⟩ := wordBytes_toNat w
  have word := assembleIndex_toNat (wordBytes w).1 (wordBytes w).2
  exact BitVec.eq_of_toNat_eq (by omega)

theorem indexLegal_iff {w : HalfWord} : indexLegal w = true ↔ w.toNat < 1024 := by
  have := w.isLt
  rw [indexLegal, beq_iff_eq, ← BitVec.toNat_inj, BitVec.extractLsb'_toNat, Nat.shiftRight_eq_div_pow]
  simp only [BitVec.toNat_ofNat]
  omega

theorem shapeField_toNat (w : HalfWord) : (shapeField w).toNat = w.toNat / 8 % 128 := by
  rw [shapeField, BitVec.extractLsb'_toNat, Nat.shiftRight_eq_div_pow]

theorem gainField_toNat (w : HalfWord) : (gainField w).toNat = w.toNat % 8 := by
  rw [gainField, BitVec.extractLsb'_toNat, Nat.shiftRight_zero]

theorem indexWord_toNat {shape gain : Nat} (h : shape < 128) (h' : gain < 8) :
    (indexWord shape gain).toNat = shape * 8 + gain := by
  rw [indexWord, BitVec.toNat_or, BitVec.toNat_shiftLeft, BitVec.toNat_ofNat, BitVec.toNat_ofNat,
    Nat.mod_eq_of_lt (by omega), Nat.mod_eq_of_lt (a := gain) (by omega), Nat.shiftLeft_eq,
    Nat.mod_eq_of_lt (by omega), ← Nat.shiftLeft_eq, ← Nat.shiftLeft_add_eq_or_of_lt h', Nat.shiftLeft_eq]

/-- The bytes of a legal index word decode to its two fields, and nothing else decodes to them. -/
theorem decodeIndex_eq_ok_iff {b0 b1 : Byte} {i : Instr} :
    decodeIndex b0 b1 = .ok i ↔ ∃ shape gain, shape < 128 ∧ gain < 8 ∧ i = .index shape gain
      ∧ assembleIndex b0 b1 = indexWord shape gain := by
  simp only [decodeIndex]
  generalize assembleIndex b0 b1 = w
  constructor
  · intro h
    split at h
    next legal =>
      have range := indexLegal_iff.mp legal
      obtain rfl := Except.ok.inj h
      refine ⟨_, _, (shapeField w).isLt, (gainField w).isLt, rfl, BitVec.eq_of_toNat_eq ?_⟩
      rw [indexWord_toNat (shapeField w).isLt (gainField w).isLt, shapeField_toNat, gainField_toNat]
      omega
    next => cases h
  · rintro ⟨shape, gain, hs, hg, rfl, rfl⟩
    have word := indexWord_toNat hs hg
    rw [if_pos (indexLegal_iff.mpr (by omega)), shapeField_toNat, gainField_toNat, word]
    congr 2 <;> omega

/-- The index row of R99: the two bytes are those of the word their fields make. -/
theorem encode_of_decodeIndex {b0 b1 : Byte} {i : Instr} (h : decodeIndex b0 b1 = .ok i) :
    i.WellFormed ∧ encode i = .iw b0 b1 := by
  obtain ⟨shape, gain, hs, hg, rfl, word⟩ := decodeIndex_eq_ok_iff.mp h
  refine ⟨wellFormed_index_iff.mpr ⟨hs, hg⟩, ?_⟩
  rw [encode, ← word, wordBytes_assembleIndex]

/-! ## Micro-operation numbers (30_encoding.md R100) -/

/-- The 26 rows of R100. -/
theorem encode_of_decodeMicro {n : Byte} {i : Instr} (h : decodeMicro n = .ok i) : i.WellFormed ∧ encode i = .mw n := by
  unfold decodeMicro at h
  split at h
  case h_27 => cases h
  all_goals
    next number =>
    obtain rfl := Except.ok.inj h
    exact ⟨rfl, congrArg CodeWord.mw (BitVec.eq_of_toNat_eq number.symm)⟩

/-! ## The decoder and the encoder -/

/-- Settles O17: an index word's bytes carry its two fields, the argument of INIT_DEC its bit, and every other word is a
constant of its table. -/
theorem decodeOfEncodeIsTheInstruction : Obligations.DecodeOfEncodeIsTheInstruction := by
  intro i wf
  cases i with
  | index shape gain =>
    obtain ⟨hs, hg⟩ := wellFormed_index_iff.mp wf
    exact decodeIndex_eq_ok_iff.mpr ⟨shape, gain, hs, hg, rfl, assembleIndex_wordBytes _⟩
  | initDec pf => cases pf <;> rfl
  | _ => rfl

/-- Settles O18: each format's decoder answers only what its own table encodes as the word. -/
theorem encodeOfDecodeIsTheWord : Obligations.EncodeOfDecodeIsTheWord := by
  intro p i h
  cases p with
  | cw w => exact encode_of_decodeCommand h
  | iw b0 b1 => exact encode_of_decodeIndex h
  | mw n => exact encode_of_decodeMicro h

/-- Settles O16: each decoder on the words of R108, R109 and two of R100. -/
theorem writtenOutWordsDecode : Obligations.WrittenOutWordsDecode := by
  unfold Obligations.WrittenOutWordsDecode
  decide

end Sys2Proof
end

section
/-! SUPPORT. Words run by a step, and the decoder's side of an index word: what the bytes on DIN give DEC_VEC, the excitation the
word stands for (44_vq.md R190), and DEC_VEC as its micro-operations (45_controller.md R214). -/

namespace Sys2Proof.Machine

variable {α : Type}

/-! ## A step -/

theorem runWord_of_decode {p : CodeWord} {i : Instr} (s : State) (h : decode p = .ok i) : runWord p s = exec i s := by
  rw [runWord, h]

/-- Settles O14: a step runs the word of the bench, or that of CMD, and a word that decodes is run as its instruction. -/
theorem stepRunsTheDecodedInstruction : Obligations.StepRunsTheDecodedInstruction := by
  refine ⟨fun s w rest i bench cmd word => ?_, fun s p i bench word => ?_⟩
  · rw [step, bench, cmd]
    exact runWord_of_decode _ word
  · rw [step, bench]
    exact runWord_of_decode _ word

/-! ## The index word as an instruction -/

theorem exec_index (shape gain : Nat) (s : State) :
    exec (.index shape gain) s = .next (s.setLoc { s.loc with
      idx := packIndex shape gain, et := excite cfg (packIndex shape gain) s.loc.gain }) := rfl

theorem packIndex_eq_ofNat {shape gain : Nat} (h : shape < 128) (h' : gain < 8) :
    packIndex shape gain = BitVec.ofNat 10 (shape * 8 + gain) :=
  BitVec.eq_of_toNat_eq (by rw [packIndex_toNat h h', BitVec.toNat_ofNat, Nat.mod_eq_of_lt (by omega)])

theorem excite_packIndex_get (C : Cfg α) {shape gain k : Nat} (g : α) (h : shape < 128) (h' : gain < 8) (hk : k < 5) :
    (excite C (packIndex shape gain) g).get k = C.num.mul (C.num.mul g (C.cbGain gain)) (C.cbShape shape k) := by
  rw [excite, get_ofFn _ hk, idxShape_packIndex h h', idxGain_packIndex h h']

/-- Settles O48: the packed index has the two fields EXCITE reads. -/
theorem indexWordStandsForItsExcitation : Obligations.IndexWordStandsForItsExcitation := by
  intro s shape gain hs hg
  refine ⟨excite cfg (packIndex shape gain) s.loc.gain, ?_, fun k hk => excite_packIndex_get cfg _ hs hg hk⟩
  rw [exec_index, packIndex_eq_ofNat hs hg]
  rfl

/-! ## DEC_VEC -/

/-- The ten bits DEC_VEC takes from two bytes on DIN are the index the word decodes to (45_controller.md R213). -/
theorem takeIndex_of_decodeIndex {b0 b1 : Byte} {shape gain : Nat} (rest : List Byte)
    (h : decodeIndex b0 b1 = .ok (.index shape gain)) :
    takeIndex (b0 :: b1 :: rest) = .legal (packIndex shape gain) rest := by
  obtain ⟨_, _, hs, hg, ⟨⟩, word⟩ := decodeIndex_eq_ok_iff.mp h
  have value := indexWord_toNat hs hg
  have legal : indexLegal (indexWord shape gain) = true := indexLegal_iff.mpr (by omega)
  have index : (indexWord shape gain).extractLsb' 0 10 = packIndex shape gain :=
    BitVec.eq_of_toNat_eq (by rw [BitVec.extractLsb'_toNat, Nat.shiftRight_zero, packIndex_toNat hs hg]; omega)
  simp only [takeIndex, word, legal, if_true, index]

theorem exec_decVec (s : State) : exec .decVec s = execDecVec s := rfl

theorem execDecVec_runs {s : State} {idx : BitVec 10} {rest : List Byte} (ready : vectorReady .dec s.toCoreState = true)
    (taken : takeIndex s.DIN_IDX = .legal idx rest) :
    execDecVec s = .next { s with
      toCoreState := (decodeVector cfg idx s.toCoreState).core, DIN_IDX := rest
      DOUT_SMP := s.DOUT_SMP ++ (decodeVector cfg idx s.toCoreState).out.toList } := by
  rw [execDecVec, if_pos ready, taken]

/-- Lines 1 to 7 of R214: the elements and the synthesized vector the postfilter would be given. -/
def decodeUnfiltered (C : Cfg α) (idx : BitVec 10) (s : CoreState α) : CoreState α × Vec5 α :=
  let s1 := sched C s
  let et := excite C idx (corePredgain C s1)
  let mu := coreMemupd C et (coreUpdgain C et (ringWrite s1 .qexc et))
  (ringWrite mu.1 .qsyn mu.2, mu.2)

@[simp] theorem decodeUnfiltered_PF_EN (C : Cfg α) (idx : BitVec 10) (s : CoreState α) :
    (decodeUnfiltered C idx s).1.PF_EN = s.PF_EN := by simp [decodeUnfiltered]

/-- Line 8 of R214: the postfilter where it is enabled, the vector as it is where not. -/
def decodeOutput (C : Cfg α) (u : CoreState α × Vec5 α) : CoreState α × Vec5 α :=
  if u.1.PF_EN then corePostfilt C u.2 u.1 else u

/-- R214 in three parts: up to the synthesized vector, the postfilter, the output ring and STEP_END. -/
theorem decodeVector_eq (C : Cfg α) (idx : BitVec 10) (s : CoreState α) :
    let r := decodeOutput C (decodeUnfiltered C idx s)
    (decodeVector C idx s).core = stepEnd (ringWrite r.1 .qin r.2) ∧ (decodeVector C idx s).out = r.2 := ⟨rfl, rfl⟩

theorem exec_sched (s : State) : exec .sched s = .next (s.setCore (sched cfg s.toCoreState)) := rfl

theorem exec_updgain (s : State) : exec .updgain s = .next (s.setCore (coreUpdgain cfg s.loc.et s.toCoreState)) := rfl

theorem exec_memupd (s : State) :
    exec .memupd s = .next ((s.setCore (coreMemupd cfg s.loc.et s.toCoreState).1).setLoc
      { s.loc with sq := (coreMemupd cfg s.loc.et s.toCoreState).2 }) := rfl

theorem exec_postfilt (s : State) :
    exec .postfilt s = .next ((s.setCore (corePostfilt cfg s.loc.sq s.toCoreState).1).setLoc
      { s.loc with out := (corePostfilt cfg s.loc.sq s.toCoreState).2 }) := rfl

/-- Lines 1 to 7 of R214, each run as its instruction on what the line before it left. -/
theorem exec_decodeUnfiltered (s : State) (shape gain : Nat) :
    ∃ t1 t2 t3 t4 t5 t6 t7 : State,
      exec .sched s = .next t1
      ∧ exec .predgain t1 = .next t2
      ∧ exec (.index shape gain) t2 = .next t3
      ∧ exec .ringwr (t3.setLoc { t3.loc with wring := .qexc, v := t3.loc.et }) = .next t4
      ∧ exec .updgain t4 = .next t5
      ∧ exec .memupd t5 = .next t6
      ∧ exec .ringwr (t6.setLoc { t6.loc with wring := .qsyn, v := t6.loc.sq }) = .next t7
      ∧ (t7.toCoreState, t7.loc.sq) = decodeUnfiltered cfg (packIndex shape gain) s.toCoreState :=
  ⟨_, _, _, _, _, _, _, exec_sched s, exec_predgain _, exec_index .., exec_ringwr _, exec_updgain _, exec_memupd _,
    exec_ringwr _, rfl⟩

/-- Line 8 of R214 as an instruction, or the copy that stands for it where the postfilter is off. -/
theorem exec_decodeOutput (t : State) :
    ∃ t' : State, (t.PF_EN = true → exec .postfilt t = .next t')
      ∧ (t.PF_EN = false → t' = t.setLoc { t.loc with out := t.loc.sq })
      ∧ (t'.toCoreState, t'.loc.out) = decodeOutput cfg (t.toCoreState, t.loc.sq) := by
  cases h : t.PF_EN with
  | true => exact ⟨_, fun _ => exec_postfilt t, nofun, by simp [decodeOutput, h]⟩
  | false => exact ⟨_, nofun, fun _ => rfl, by simp [decodeOutput, h]⟩

/-- Settles O10: the lines up to the synthesized vector, the postfilter's line, and the last ring write are the three parts of
DEC_VEC's sequence. -/
theorem decVecRunsItsMicroOperationsInOrder : Obligations.DecVecRunsItsMicroOperationsInOrder := by
  intro s b0 b1 rest shape gain running dec din word
  have ready : vectorReady .dec s.toCoreState = true := (vectorReady_iff ..).mpr ⟨running, dec⟩
  have taken : takeIndex s.DIN_IDX = .legal (packIndex shape gain) rest := din ▸ takeIndex_of_decodeIndex rest word
  obtain ⟨t1, t2, t3, t4, t5, t6, t7, line1, line2, line3, line4, line5, line6, line7, unfiltered⟩ :=
    exec_decodeUnfiltered s shape gain
  obtain ⟨t8, on, off, output⟩ := exec_decodeOutput t7
  have pfEn : t7.PF_EN = s.PF_EN := by
    simpa [← unfiltered] using decodeUnfiltered_PF_EN cfg (packIndex shape gain) s.toCoreState
  obtain ⟨core, out⟩ := decodeVector_eq cfg (packIndex shape gain) s.toCoreState
  rw [← unfiltered, ← output] at core out
  refine ⟨t1, t2, t3, t4, t5, t6, t7, t8, _, line1, line2, line3, line4, line5, line6, line7, pfEn ▸ on, pfEn ▸ off,
    exec_ringwr _, ?_⟩
  rw [exec_decVec, execDecVec_runs ready taken, core, out]
  rfl

end Sys2Proof.Machine
end

section
/-! SUPPORT. HWIN and BWEXP as instructions (40_lpc_core.md R111, R115, R122, R123): what HWIN leaves in the history, the
recursive part and the result of its adapter, and that on zeros an adapter changes nothing (R113 a). -/

namespace Sys2Proof.Machine

variable {α : Type}

/-! ## HWIN over any sizes and tables -/

/-- A sample of the shifted history, windowed (step 2 of R111). -/
def windowed (N : NumOps α) (sb : List α) (WN : Nat → α) (n : Nat) : α := N.mul (rd N sb n) (WN n)

/-- The lag product sum of `cnt` windowed samples from `lo` on. -/
def lagProducts (N : NumOps α) (sb : List α) (WN : Nat → α) (lo cnt i : Nat) : α :=
  sumFrom N lo cnt (fun n => N.mul (windowed N sb WN n) (windowed N sb WN (n - i)))

/-- A lag product sum inside the history reads the windowed samples. -/
theorem lagSum_windowed (N : NumOps α) (sb : List α) (WN : Nat → α) {n3 lo cnt : Nat} (i : Nat) (h : lo + cnt ≤ n3) :
    lagSum N (tabulate n3 (windowed N sb WN)) lo cnt i = lagProducts N sb WN lo cnt i :=
  sumFrom_congr N fun n _ hn => by
    rw [rd_tabulate N _ _ (by omega), rd_tabulate N _ _ (by omega)]

section
variable {N : NumOps α} {M L K : Nat} {SB new : List α} {WN : Nat → α} {REXP : List α} {d w : α}

theorem rd_hwin_SB_old {n : Nat} (hn : n < M + L + K - L) :
    rd N (hwin N M L K SB new WN REXP d w).SB n = rd N SB (n + L) := by
  rw [hwin_SB _ _ _ _ _ _ _ _ _ _ (by omega), if_pos hn]

theorem rd_hwin_SB_new {n : Nat} (hn : n < L) :
    rd N (hwin N M L K SB new WN REXP d w).SB (M + L + K - L + n) = rd N new n := by
  rw [hwin_SB _ _ _ _ _ _ _ _ _ _ (by omega), if_neg (by omega), Nat.add_sub_cancel_left]

theorem rd_hwin_REXP {i : Nat} (hi : i ≤ M) :
    let h := hwin N M L K SB new WN REXP d w
    rd N h.REXP i = N.add (N.mul d (rd N REXP i)) (lagProducts N h.SB WN M L i) := by
  intro h
  rw [← lagSum_windowed N h.SB WN i (n3 := M + L + K) (by omega)]
  exact rd_tabulate N _ _ (by omega)

/-- Lag `i` of the result before the white-noise correction: the recursive part and the second lag product sum. -/
def spanSum (N : NumOps α) (M L K : Nat) (WN : Nat → α) (h : HwinResult α) (i : Nat) : α :=
  N.add (rd N h.REXP i) (lagProducts N h.SB WN (M + L) K i)

theorem rd_hwin_R {i : Nat} (hi : i ≤ M) :
    let h := hwin N M L K SB new WN REXP d w
    rd N h.R i = if i = 0 then N.mul (spanSum N M L K WN h 0) w else spanSum N M L K WN h i := by
  intro h
  have uncorrected {j : Nat} (hj : j ≤ M) :
      rd N (tabulate (M + 1) (fun i => N.add (rd N h.REXP i)
        (lagSum N (tabulate (M + L + K) (windowed N h.SB WN)) (M + L) K i))) j = spanSum N M L K WN h j := by
    rw [rd_tabulate N _ _ (by omega), lagSum_windowed N h.SB WN j le_rfl, spanSum]
  rw [← uncorrected hi, ← uncorrected M.zero_le]
  exact rd_tabulate N _ _ (by omega)

end

/-! ## HWIN on the sizes and tables of an adapter (R115) -/

/-- The three instantiations of R115 are one HWIN. -/
theorem adapterHwin_eq (C : Cfg α) (ad : Adapter) (s : CoreState α) (new : List α) :
    adapterHwin C ad s new = hwin C.num (adapterOrder ad) (frameSizeOf ad) (spanOf C ad) (historyOf s ad) new
      (windowOf C ad) (recursiveOf s ad) (decayOf C ad) C.wncf := by
  cases ad <;> rfl

/-- What HWIN answers for an adapter (R111): the history shifted by the new frame, the recursive part decayed and increased, the
result of both spans. -/
structure HwinAnswers (C : Cfg α) (ad : Adapter) (s : CoreState α) (new : List α) (h : HwinResult α) : Prop where
  sbLength : h.SB.length = adapterOrder ad + frameSizeOf ad + spanOf C ad
  rexpLength : h.REXP.length = adapterOrder ad + 1
  rLength : h.R.length = adapterOrder ad + 1
  old : ∀ n < adapterOrder ad + frameSizeOf ad + spanOf C ad - frameSizeOf ad,
    rd C.num h.SB n = rd C.num (historyOf s ad) (n + frameSizeOf ad)
  new : ∀ n < frameSizeOf ad,
    rd C.num h.SB (adapterOrder ad + frameSizeOf ad + spanOf C ad - frameSizeOf ad + n) = rd C.num new n
  recursive : ∀ i ≤ adapterOrder ad, rd C.num h.REXP i
    = C.num.add (C.num.mul (decayOf C ad) (rd C.num (recursiveOf s ad) i))
        (lagProducts C.num h.SB (windowOf C ad) (adapterOrder ad) (frameSizeOf ad) i)
  lagZero : rd C.num h.R 0
    = C.num.mul (spanSum C.num (adapterOrder ad) (frameSizeOf ad) (spanOf C ad) (windowOf C ad) h 0) C.wncf
  lag : ∀ i, 1 ≤ i → i ≤ adapterOrder ad →
    rd C.num h.R i = spanSum C.num (adapterOrder ad) (frameSizeOf ad) (spanOf C ad) (windowOf C ad) h i

theorem adapterHwin_answers (C : Cfg α) (ad : Adapter) (s : CoreState α) (new : List α) :
    HwinAnswers C ad s new (adapterHwin C ad s new) := by
  rw [adapterHwin_eq]
  exact
    { sbLength := hwin_SB_length ..
      rexpLength := hwin_REXP_length ..
      rLength := hwin_R_length ..
      old := fun _ => rd_hwin_SB_old
      new := fun _ => rd_hwin_SB_new
      recursive := fun _ => rd_hwin_REXP
      lagZero := (rd_hwin_R (Nat.zero_le _)).trans (if_pos rfl)
      lag := fun _ h1 hM => (rd_hwin_R hM).trans (if_neg (by omega)) }

theorem exec_hwin (s : State) :
    let h := adapterHwin cfg s.loc.adapter s.toCoreState s.loc.new
    exec .hwin s = .next ((s.setCore (storeHwin s.loc.adapter s.toCoreState h)).setLoc { s.loc with R := h.R }) := rfl

/-- Settles O21: HWIN's answer on the sizes and tables of the adapter. -/
theorem hwinShiftsWindowsAndAccumulates : Obligations.HwinShiftsWindowsAndAccumulates := by
  refine ⟨rfl, ?_⟩
  rintro s ad rfl
  obtain ⟨sbLength, rexpLength, rLength, old, new, recursive, lagZero, lag⟩ :=
    adapterHwin_answers cfg s.loc.adapter s.toCoreState s.loc.new
  exact ⟨_, _, _, exec_hwin s, sbLength, rexpLength, rLength, old, new, recursive, lagZero, lag⟩

/-! ## BWEXP -/

theorem exec_bwexp (s : State) :
    exec .bwexp s = .next (s.setLoc { s.loc with bx := tableBwexp cfg s.loc.bw s.loc.a }) := rfl

/-- The four instantiations of R123 are one BWEXP, on the order and the table of the instantiation. -/
theorem tableBwexp_eq (C : Cfg α) (t : BwTable) (a : List α) :
    tableBwexp C t a = bwexp C.num a (bwTableOf C t) (bwOrder t) := by
  cases t <;> rfl

theorem decayTable_zero (t : Nat → B32) : decayTable t 0 = b32OfInt 1 := if_pos rfl

theorem bwTableOf_cfg_zero (t : BwTable) : bwTableOf cfg t 0 = b32OfInt 1 := by
  cases t with
  | syn => exact decayTable_zero Config.bwSyn
  | wz => exact decayTable_zero Config.bwWz
  | wp => exact decayTable_zero Config.bwWp
  | g => exact decayTable_zero Config.bwG

/-- Settles O26: BWEXP tabulates the products, and each table is a decay table. -/
theorem bwexpScalesEachCoefficient : Obligations.BwexpScalesEachCoefficient := by
  intro s
  have answer := exec_bwexp s
  rw [tableBwexp_eq] at answer
  exact ⟨_, answer, bwexp_length .., fun i hi => rd_bwexp _ _ _ hi, bwTableOf_cfg_zero _⟩

/-! ## The adapters on zeros (R113 a) -/

theorem eq_replicate_of_rd (N : NumOps α) {l : List α} {n : Nat} {x : α} (length : l.length = n)
    (h : ∀ i < n, rd N l i = x) : l = List.replicate n x := by
  refine List.ext_getElem (by rw [length, List.length_replicate]) fun i hi hi' => ?_
  rw [List.getElem_replicate, ← rd_of_lt N l hi]
  exact h i (length ▸ hi)

/-- A zero of either sign. -/
def IsSignedZero (x : B32) : Prop := ∃ neg, x = .fin neg 0 0

theorem b32Zero_isSignedZero : IsSignedZero b32Zero := ⟨false, rfl⟩

theorem isFinite_of_isSignedZero {x : B32} (h : IsSignedZero x) : b32IsFinite x = true := by
  obtain ⟨neg, rfl⟩ := h
  rfl

theorem b32Mul_isSignedZero_left {x y : B32} (hx : IsSignedZero x) (hy : b32IsFinite y = true) :
    IsSignedZero (b32Mul x y) := by
  obtain ⟨neg, rfl⟩ := hx
  obtain ⟨neg', e, f, rfl⟩ := finite_eq_fin hy
  exact ⟨neg != neg', by simp [b32Mul, units_zero, roundUnits_zero]⟩

theorem b32Mul_isSignedZero_right {x y : B32} (hx : b32IsFinite x = true) (hy : IsSignedZero y) :
    IsSignedZero (b32Mul x y) := by
  obtain ⟨neg, e, f, rfl⟩ := finite_eq_fin hx
  obtain ⟨neg', rfl⟩ := hy
  exact ⟨neg != neg', by simp [b32Mul, units_zero, roundUnits_zero]⟩

/-- A zero of either sign and `+0` add up to `+0`. -/
theorem b32Add_isSignedZero_zero {x : B32} (h : IsSignedZero x) : b32Add x b32Zero = b32Zero := by
  obtain ⟨neg, rfl⟩ := h
  cases neg <;> rfl

/-- A zero sample times a finite window entry is a zero of some sign, and a sum of products of those is `+0`. -/
theorem lagProducts_zeros {sb : List B32} {WN : Nat → B32} (hsb : ∀ n, rd binary32 sb n = b32Zero)
    (hWN : ∀ n, b32IsFinite (WN n) = true) (lo cnt i : Nat) : lagProducts binary32 sb WN lo cnt i = b32Zero := by
  have vanishes (n : Nat) : IsSignedZero (windowed binary32 sb WN n) := by
    rw [windowed, hsb]
    exact b32Mul_isSignedZero_left b32Zero_isSignedZero (hWN n)
  exact sumFrom_signed_zeros fun n _ _ =>
    b32Mul_isSignedZero_left (vanishes n) (isFinite_of_isSignedZero (vanishes (n - i)))

/-- The window entries of this hardware are finite numbers (log 5). -/
theorem windowOf_cfg_isFinite (ad : Adapter) (n : Nat) : b32IsFinite (windowOf cfg ad n) = true := by
  cases ad <;> exact finiteOr0_isFinite _

theorem decayOf_cfg_isFinite (ad : Adapter) : b32IsFinite (decayOf cfg ad) = true := by
  cases ad <;> exact finiteOr0_isFinite _

theorem storeHwin_of_same (ad : Adapter) (s : CoreState α) (h : HwinResult α) (sb : h.SB = historyOf s ad)
    (rexp : h.REXP = recursiveOf s ad) : storeHwin ad s h = s := by
  cases ad <;> simp only [storeHwin, sb, rexp] <;> rfl

/-- The terminal lag test of R117. -/
theorem levdur_of_terminal_lag_zero {N : NumOps α} {R : List α} {M : Nat} (h : N.eq (rd N R M) N.zero = true) :
    levdur N R M = none := by
  rw [levdur, levRun, levStart, if_pos h]
  rfl

/-- R113 a: HWIN leaves zeros as they are, and the terminal lag is `+0`, so the recursion fails. -/
theorem adapterHwin_zeros {ad : Adapter} {s : CoreState B32} {new : List B32}
    (history : historyOf s ad = List.replicate (adapterOrder ad + frameSizeOf ad + spanOf cfg ad) b32Zero)
    (recursivePart : recursiveOf s ad = List.replicate (adapterOrder ad + 1) b32Zero)
    (frame : ∀ n, rd binary32 new n = b32Zero) :
    let h := adapterHwin cfg ad s new
    storeHwin ad s h = s ∧ levdur binary32 h.R (adapterOrder ad) = none := by
  obtain ⟨sbLength, rexpLength, -, old, fresh, recursive, -, lag⟩ := adapterHwin_answers cfg ad s new
  generalize adapterHwin cfg ad s new = h at *
  have history_zero (n : Nat) : rd binary32 (historyOf s ad) n = b32Zero := history ▸ rd_replicate_zero binary32 _ n
  have recursive_zero (i : Nat) : rd binary32 (recursiveOf s ad) i = b32Zero :=
    recursivePart ▸ rd_replicate_zero binary32 _ i
  have sb : h.SB = historyOf s ad := by
    refine (eq_replicate_of_rd binary32 sbLength fun n hn => ?_).trans history.symm
    obtain earlier | later := Nat.lt_or_ge n (adapterOrder ad + frameSizeOf ad + spanOf cfg ad - frameSizeOf ad)
    · exact (old n earlier).trans (history_zero _)
    · obtain ⟨k, rfl⟩ := Nat.exists_eq_add_of_le later
      exact (fresh k (by omega)).trans (frame k)
  have products (lo cnt i : Nat) : lagProducts binary32 h.SB (windowOf cfg ad) lo cnt i = b32Zero :=
    lagProducts_zeros (sb ▸ history_zero) (windowOf_cfg_isFinite ad) lo cnt i
  have rexp_zero (i : Nat) (hi : i ≤ adapterOrder ad) : rd binary32 h.REXP i = b32Zero := by
    calc rd binary32 h.REXP i
        = b32Add (b32Mul (decayOf cfg ad) (rd binary32 (recursiveOf s ad) i))
            (lagProducts binary32 h.SB (windowOf cfg ad) (adapterOrder ad) (frameSizeOf ad) i) := recursive i hi
      _ = b32Add (b32Mul (decayOf cfg ad) b32Zero) b32Zero := by rw [recursive_zero, products]
      _ = b32Zero := b32Add_isSignedZero_zero
          (b32Mul_isSignedZero_right (decayOf_cfg_isFinite ad) b32Zero_isSignedZero)
  have rexp : h.REXP = recursiveOf s ad :=
    (eq_replicate_of_rd binary32 rexpLength fun i hi => rexp_zero i (by omega)).trans recursivePart.symm
  have order : 1 ≤ adapterOrder ad := by cases ad <;> decide
  have terminal : rd binary32 h.R (adapterOrder ad) = b32Zero := by
    calc rd binary32 h.R (adapterOrder ad)
        = b32Add (rd binary32 h.REXP (adapterOrder ad)) (lagProducts binary32 h.SB (windowOf cfg ad)
            (adapterOrder ad + frameSizeOf ad) (spanOf cfg ad) (adapterOrder ad)) := lag _ order le_rfl
      _ = b32Add b32Zero b32Zero := by rw [rexp_zero _ le_rfl, products]
      _ = b32Zero := rfl
  exact ⟨storeHwin_of_same ad s h sb rexp, levdur_of_terminal_lag_zero (by rw [terminal]; rfl)⟩

theorem exec_adaptSyn (s : State) : exec .adaptSyn s = .next (s.setCore (adaptSyn cfg s.toCoreState)) := rfl

theorem exec_adaptGain (s : State) : exec .adaptGain s = .next (s.setCore (adaptGain cfg s.toCoreState)) := rfl

theorem exec_adaptWgt (s : State) : exec .adaptWgt s = .next (s.setCore (adaptWgt cfg s.toCoreState)) := rfl

theorem rd_ringRead_zeros {s : CoreState B32} {q : Ring} {n : Nat} (h : ringOf s q = List.replicate n b32Zero)
    (len i : Nat) : rd binary32 (ringRead binary32 s q len) i = b32Zero := by
  obtain hi | hi := Nat.lt_or_ge i len
  · rw [rd_ringRead _ _ _ hi, h]
    exact rd_replicate_zero binary32 _ _
  · exact rd_of_length_le binary32 _ (by rw [ringRead_length]; exact hi)

/-- Where ADAPT_SYN's history, recursive part and ring are zeros, its recursion fails. -/
theorem adaptSyn_zeros {s : CoreState B32} (ring : s.QSYN = List.replicate 60 b32Zero)
    (history : s.SB_SYN = List.replicate (70 + cfg.nonr) b32Zero) (recursivePart : s.REXP_SYN = List.replicate 51 b32Zero) :
    adaptSyn cfg s = s := by
  obtain ⟨same, fails⟩ := adapterHwin_zeros (ad := .syn) history recursivePart
    (rd_ringRead_zeros (q := .speech .qsyn) ring 20)
  obtain ⟨-, ends⟩ | ⟨r, succeeds, -⟩ := adaptSyn_cases cfg s
  · exact ends.trans same
  · exact nomatch (levdurSyn_eq_none.mpr fails).symm.trans succeeds

theorem adaptGain_zeros {s : CoreState B32} (ring : s.QLG = List.replicate 12 b32Zero)
    (history : s.SB_G = List.replicate (14 + cfg.nonrlg) b32Zero) (recursivePart : s.REXP_G = List.replicate 11 b32Zero) :
    adaptGain cfg s = s := by
  obtain ⟨same, fails⟩ := adapterHwin_zeros (ad := .gain) history recursivePart (rd_ringRead_zeros (q := .qlg) ring 4)
  obtain ⟨-, ends⟩ | ⟨a, succeeds, -⟩ := adaptGain_cases cfg s
  · exact ends.trans same
  · exact nomatch fails.symm.trans succeeds

theorem adaptWgt_zeros {s : CoreState B32} (ring : ringOf s (weightingSource s.MODE) = List.replicate 60 b32Zero)
    (history : s.SB_W = List.replicate (30 + cfg.nonrw) b32Zero) (recursivePart : s.REXP_W = List.replicate 11 b32Zero) :
    adaptWgt cfg s = s := by
  obtain ⟨same, fails⟩ := adapterHwin_zeros (ad := .wgt) history recursivePart (rd_ringRead_zeros ring 20)
  obtain ⟨-, ends⟩ | ⟨a, succeeds, -⟩ := adaptWgt_cases cfg s
  · exact ends.trans same
  · exact nomatch fails.symm.trans succeeds

/-- Settles O30: HWIN leaves the zeros and the recursion fails, whichever ring the weighting adapter reads. -/
theorem zeroEnergyAdaptersChangeNothing : Obligations.ZeroEnergyAdaptersChangeNothing := by
  intro s z
  refine ⟨fun ring history recursivePart => ?_, fun ring history recursivePart => ?_,
    fun qin qsyn history recursivePart => ?_⟩
  · rw [exec_adaptSyn, adaptSyn_zeros ring history recursivePart]; rfl
  · rw [exec_adaptGain, adaptGain_zeros ring history recursivePart]; rfl
  · have ring : ringOf s.toCoreState (weightingSource s.MODE) = z 60 := by
      cases s.MODE with
      | enc => exact qin
      | dec => exact qsyn
    rw [exec_adaptWgt, adaptWgt_zeros ring history recursivePart]; rfl

end Sys2Proof.Machine
end

section
/-! SUPPORT. The Levinson-Durbin recursion order by order, its tests apart from its values (40_lpc_core.md R117), and with it
LEVDUR and LEVDUR_SYN as instructions (R116, R119, R120). -/

namespace Sys2Proof.Machine

variable {α : Type}

/-! ## The recursion without its tests -/

/-- Order 1 of R117. -/
def levFirst (N : NumOps α) (R : List α) : LevState α :=
  let rc := N.neg (N.div (rd N R 1) (rd N R 0))
  { a := [N.one, rc], alpha := N.add (rd N R 0) (N.mul (rd N R 1) rc), k1 := rc, a10 := [] }

/-- The reflection coefficient of order `m ≥ 2`. -/
def levReflection (N : NumOps α) (R : List α) (st : LevState α) (m : Nat) : α :=
  N.neg (N.div (levSum N R st.a m) st.alpha)

/-- Order `m ≥ 2` of R117. -/
def levNext (N : NumOps α) (R : List α) (st : LevState α) (m : Nat) : LevState α :=
  let rc := levReflection N R st m
  { a := levUpdate N st.a rc m, alpha := N.add st.alpha (N.mul rc (levSum N R st.a m)), k1 := st.k1
    a10 := if m = 10 then levUpdate N st.a rc m else st.a10 }

/-- What stands after order `m ≥ 1`, whether or not a test failed on the way. -/
def levOrder (N : NumOps α) (R : List α) : Nat → LevState α
  | 0 => levFirst N R
  | 1 => levFirst N R
  | m + 2 => levNext N R (levOrder N R (m + 1)) (m + 2)

theorem levOrder_one (N : NumOps α) (R : List α) : levOrder N R 1 = levFirst N R := rfl

theorem levOrder_succ (N : NumOps α) (R : List α) {m : Nat} (hm : 1 ≤ m) :
    levOrder N R (m + 1) = levNext N R (levOrder N R m) (m + 1) := by
  cases m with
  | zero => omega
  | succ m => rfl

theorem levOrder_a_length (N : NumOps α) (R : List α) {m : Nat} (hm : 1 ≤ m) : (levOrder N R m).a.length = m + 1 := by
  induction m, hm using Nat.le_induction with
  | base => rfl
  | succ m hm _ =>
    rw [levOrder_succ N R hm]
    exact levUpdate_length ..

/-- LEVDUR_SYN's first cached value is the reflection coefficient of order 1 (R119). -/
theorem levOrder_k1 (N : NumOps α) (R : List α) {m : Nat} (hm : 1 ≤ m) :
    (levOrder N R m).k1 = N.neg (N.div (rd N R 1) (rd N R 0)) := by
  induction m, hm using Nat.le_induction with
  | base => rfl
  | succ m hm ih => rwa [levOrder_succ N R hm]

/-- LEVDUR_SYN's second cached value is the coefficients of order 10 (R119). -/
theorem levOrder_a10 (N : NumOps α) (R : List α) {m : Nat} (hm : 10 ≤ m) :
    (levOrder N R m).a10 = (levOrder N R 10).a := by
  induction m, hm using Nat.le_induction with
  | base => rfl
  | succ m hm ih =>
    rw [levOrder_succ N R (by omega)]
    exact (if_neg (by omega)).trans ih

/-! ## The tests -/

/-- The residual energy of order `m` passes its test. -/
def levPositive (N : NumOps α) (R : List α) (m : Nat) : Bool := !N.le (levOrder N R m).alpha N.zero

/-- No test of R117 fails up to order `M`. -/
def levPasses (N : NumOps α) (R : List α) (M : Nat) : Bool :=
  !N.eq (rd N R M) N.zero && !N.le (rd N R 0) N.zero && (List.range' 1 M).all (levPositive N R)

theorem levPasses_iff {N : NumOps α} {R : List α} {M : Nat} :
    levPasses N R M = true ↔ N.eq (rd N R M) N.zero = false ∧ N.le (rd N R 0) N.zero = false
      ∧ ∀ m, 1 ≤ m → m ≤ M → N.le (levOrder N R m).alpha N.zero = false := by
  simp only [levPasses, levPositive, Bool.and_eq_true, Bool.not_eq_true', List.all_eq_true, List.mem_range'_1, and_assoc,
    and_imp, Nat.lt_one_add_iff]

theorem levStart_eq (N : NumOps α) (R : List α) (M : Nat) :
    levStart N R M = if !N.eq (rd N R M) N.zero && !N.le (rd N R 0) N.zero && levPositive N R 1
      then some (levOrder N R 1) else none := by
  unfold levStart
  cases N.eq (rd N R M) N.zero with
  | true => rfl
  | false =>
    cases N.le (rd N R 0) N.zero with
    | true => rfl
    | false =>
      rw [levPositive, levOrder_one]
      cases h : N.le (levFirst N R).alpha N.zero with
      | true => exact if_pos h
      | false => exact if_neg (Bool.eq_false_iff.mp h)

theorem levStep_levOrder (N : NumOps α) (R : List α) {m : Nat} (hm : 1 ≤ m) :
    levStep N R (levOrder N R m) (m + 1) = if levPositive N R (m + 1) then some (levOrder N R (m + 1)) else none := by
  rw [levPositive, levOrder_succ N R hm]
  unfold levStep
  cases h : N.le (levNext N R (levOrder N R m) (m + 1)).alpha N.zero with
  | true => exact if_pos h
  | false => exact if_neg (Bool.eq_false_iff.mp h)

theorem foldlM_levStep_levOrder (N : NumOps α) (R : List α) (n : Nat) {m : Nat} (hm : 1 ≤ m) :
    (List.range' (m + 1) n).foldlM (levStep N R) (levOrder N R m)
      = if (List.range' (m + 1) n).all (levPositive N R) then some (levOrder N R (m + n)) else none := by
  induction n generalizing m with
  | zero => rfl
  | succ n ih =>
    rw [List.range'_succ, List.foldlM_cons, levStep_levOrder N R hm, List.all_cons]
    cases levPositive N R (m + 1) with
    | false => rfl
    | true =>
      rw [show m + (n + 1) = m + 1 + n by omega]
      exact ih (by omega)

/-- The recursion succeeds exactly when no test fails, with what stands after its order. -/
theorem levRun_eq (N : NumOps α) (R : List α) {M : Nat} (hM : 1 ≤ M) :
    levRun N R M = if levPasses N R M then some (levOrder N R M) else none := by
  obtain ⟨n, rfl⟩ := Nat.exists_eq_add_of_le' hM
  have fold := foldlM_levStep_levOrder N R n le_rfl
  rw [Nat.add_comm 1 n] at fold
  rw [levRun, levStart_eq, levPasses, List.range'_succ, List.all_cons, ← Bool.and_assoc]
  cases !N.eq (rd N R (n + 1)) N.zero && !N.le (rd N R 0) N.zero && levPositive N R 1 with
  | false => rfl
  | true => exact fold

section
variable {N : NumOps α} {R : List α}

theorem levdur_of_passes {M : Nat} (hM : 1 ≤ M) (h : levPasses N R M = true) : levdur N R M = some (levOrder N R M).a := by
  rw [levdur, levRun_eq N R hM, if_pos h]
  rfl

theorem levdur_of_not_passes {M : Nat} (hM : 1 ≤ M) (h : levPasses N R M = false) : levdur N R M = none := by
  rw [levdur, levRun_eq N R hM, if_neg (Bool.eq_false_iff.mp h)]
  rfl

theorem levdur_eq_some {M : Nat} {a : List α} (hM : 1 ≤ M) (h : levdur N R M = some a) :
    levPasses N R M = true ∧ (levOrder N R M).a = a := by
  cases passes : levPasses N R M with
  | false => exact nomatch (levdur_of_not_passes hM passes).symm.trans h
  | true => exact ⟨rfl, Option.some.inj ((levdur_of_passes hM passes).symm.trans h)⟩

theorem levdurSyn_of_passes (h : levPasses N R 50 = true) :
    levdurSyn N R = some { a := (levOrder N R 50).a, k1 := N.neg (N.div (rd N R 1) (rd N R 0)), a10 := (levOrder N R 10).a } := by
  rw [levdurSyn, levRun_eq N R (by decide), if_pos h, ← levOrder_k1 N R (m := 50) (by decide),
    ← levOrder_a10 N R (m := 50) (by decide)]
  rfl

/-- The tests of a lower order whose terminal lag is not zero are among those of the higher order (R120). -/
theorem levPasses_of_le {m M : Nat} (hm : m ≤ M) (h : levPasses N R M = true) (terminal : N.eq (rd N R m) N.zero = false) :
    levPasses N R m = true := by
  obtain ⟨-, lagZero, energies⟩ := levPasses_iff.mp h
  exact levPasses_iff.mpr ⟨terminal, lagZero, fun k h1 hk => energies k h1 (hk.trans hm)⟩

end

/-! ## LEVDUR as an instruction -/

theorem exec_levdur_of_some {s : State} {a : List B32}
    (h : levdur binary32 s.loc.R (adapterOrder s.loc.adapter) = some a) :
    exec .levdur s = .next (s.setLoc { s.loc with a := a, ok := true }) := by
  show execLevdur s = _
  rw [execLevdur, show levdur cfg.num s.loc.R (adapterOrder s.loc.adapter) = some a from h]

theorem exec_levdur_of_none {s : State} (h : levdur binary32 s.loc.R (adapterOrder s.loc.adapter) = none) :
    exec .levdur s = .next (s.setLoc { s.loc with ok := false }) := by
  show execLevdur s = _
  rw [execLevdur, show levdur cfg.num s.loc.R (adapterOrder s.loc.adapter) = none from h]

theorem one_le_adapterOrder (ad : Adapter) : 1 ≤ adapterOrder ad := by cases ad <;> decide

/-- The coefficients of an order are the table of their reads. -/
theorem map_range_rd_levOrder (N : NumOps α) (R : List α) {m : Nat} (hm : 1 ≤ m) :
    (List.range (m + 1)).map (rd N (levOrder N R m).a) = (levOrder N R m).a := by
  rw [← levOrder_a_length N R hm]
  refine List.ext_getElem (by simp) fun i _ hi => ?_
  simp [rd_of_lt N _ hi]

/-- Settles O22: the coefficients and the residual energy of each order, and both ends of the recursion. -/
theorem levdurAnswersOrFailsSafely : Obligations.LevdurAnswersOrFailsSafely := by
  intro s M R
  have order : 1 ≤ M := one_le_adapterOrder _
  refine ⟨fun m => rd binary32 (levOrder binary32 s.loc.R m).a, fun m => (levOrder binary32 s.loc.R m).alpha, rfl, rfl, rfl,
    fun m hm _ => ?_, ?_⟩
  · obtain ⟨n, rfl⟩ := Nat.exists_eq_add_of_le' hm
    have next := levOrder_succ binary32 s.loc.R (m := n + 1) (by omega)
    simp only [next]
    exact ⟨levUpdate_zero .., fun k h1 hk => levUpdate_inner _ _ _ h1 hk, levUpdate_last _ _ _ (by omega), rfl⟩
  · intro passed
    rw [show passed = levPasses binary32 s.loc.R M from rfl]
    cases passes : levPasses binary32 s.loc.R M with
    | false => exact exec_levdur_of_none (levdur_of_not_passes order passes)
    | true =>
      rw [map_range_rd_levOrder binary32 s.loc.R order]
      exact exec_levdur_of_some (levdur_of_passes order passes)

/-! ## LEVDUR_SYN as an instruction -/

theorem exec_levdurSyn_of_some {s : State} {r : LevSyn B32} (h : levdurSyn binary32 s.loc.R = some r) :
    exec .levdurSyn s = .next ((s.setCore (storeLevSyn s.toCoreState r)).setLoc { s.loc with a := r.a, ok := true }) := by
  show execLevdurSyn s = _
  rw [execLevdurSyn, show levdurSyn cfg.num s.loc.R = some r from h]

theorem exec_levdurSyn_of_none {s : State} (h : levdurSyn binary32 s.loc.R = none) :
    exec .levdurSyn s = .next (s.setLoc { s.loc with ok := false }) := by
  show execLevdurSyn s = _
  rw [execLevdurSyn, show levdurSyn cfg.num s.loc.R = none from h]

/-- Settles O25: both ends of the recursion of order 50, whose first ten orders are those of the recursion of order 10. -/
theorem levdurSynCachesOnSuccessOnly : Obligations.LevdurSynCachesOnSuccessOnly := by
  intro s
  cases passes : levPasses binary32 s.loc.R 50 with
  | false =>
    have fails := levdur_of_not_passes (by decide) passes
    exact ⟨_, exec_levdurSyn_of_none (levdurSyn_eq_none.mpr fails), fun _ => ⟨fails, rfl⟩, nofun⟩
  | true =>
    have succeeds := levdur_of_passes (by decide) passes
    exact ⟨_, exec_levdurSyn_of_some (levdurSyn_of_passes passes), nofun, fun _ => ⟨succeeds, rfl, fun terminal =>
      levdur_of_passes (by decide) (levPasses_of_le (by decide) passes terminal)⟩⟩

end Sys2Proof.Machine
end

section
/-! SUPPORT. The Levinson-Durbin recursion in exact arithmetic: its residual energy stays positive and never rises
(40_lpc_core.md R118 c), and its coefficients solve the normal equations (R116). -/

namespace Sys2Proof.Machine

/-! ## The rows of the normal equations -/

section
variable {K : Type} [Field K]

/-- Row `i` of the normal equations of order `m`: `Σ_{k=0}^{m} a[k]·R[|i − k|]`. -/
def normalRow (a R : Nat → K) (m i : Nat) : K :=
  ∑ k ∈ Finset.range (m + 1), a k * R (if k ≤ i then i - k else k - i)

/-- A coefficient past the order adds nothing. -/
theorem normalRow_succ_of_zero {a : Nat → K} (R : Nat → K) {m : Nat} (h : a (m + 1) = 0) (i : Nat) :
    normalRow a R (m + 1) i = normalRow a R m i := by
  rw [normalRow, Finset.sum_range_succ, h, zero_mul, add_zero, normalRow]

theorem normalRow_add_mul (a b R : Nat → K) (rc : K) (m i : Nat) :
    normalRow (fun k => a k + rc * b k) R m i = normalRow a R m i + rc * normalRow b R m i := by
  simp only [normalRow, add_mul, Finset.sum_add_distrib, Finset.mul_sum, mul_assoc]

theorem normalRow_congr {a b : Nat → K} (R : Nat → K) {m : Nat} (h : ∀ k ≤ m, a k = b k) (i : Nat) :
    normalRow a R m i = normalRow b R m i :=
  Finset.sum_congr rfl fun k hk => by rw [h k (Nat.lt_succ_iff.mp (Finset.mem_range.mp hk))]

/-- The rows of the reversed coefficients are the rows of the coefficients, reversed: a row reads the distance `|i − k|`
alone. -/
theorem normalRow_reverse (a R : Nat → K) {m i : Nat} (hi : i ≤ m) :
    normalRow (fun k => a (m - k)) R m i = normalRow a R m (m - i) := by
  unfold normalRow
  rw [← Finset.sum_range_reflect]
  refine Finset.sum_congr rfl fun k hk => ?_
  have := Finset.mem_range.mp hk
  dsimp only
  congr 2
  · omega
  · split <;> split <;> omega

end

variable {K : Type} [Field K] [LinearOrder K] {lg pw : K → K} {rnd : K → Int}

/-! ## Exact arithmetic -/

theorem exactNum_le_zero_eq_false {x : K} :
    (exactNum K lg pw rnd).le x (exactNum K lg pw rnd).zero = false ↔ 0 < x := by
  simp [exactNum]

theorem sumFrom_exactNum (cnt : Nat) (t : Nat → K) :
    sumFrom (exactNum K lg pw rnd) 0 cnt t = ∑ k ∈ Finset.range cnt, t k := by
  induction cnt with
  | zero => rfl
  | succ n ih =>
    rw [sumFrom_succ, Finset.sum_range_succ, ← ih, Nat.zero_add]
    rfl

/-- The sum of order `m + 1` is the row the coefficients of order `m` do not solve. -/
theorem levSum_exactNum (R a : List K) (m : Nat) :
    levSum (exactNum K lg pw rnd) R a (m + 1)
      = normalRow (rd (exactNum K lg pw rnd) a) (rd (exactNum K lg pw rnd) R) m (m + 1) := by
  rw [levSum, sumFrom_exactNum]
  refine Finset.sum_congr rfl fun k hk => ?_
  rw [if_pos (Finset.mem_range.mp hk).le]
  rfl

/-! ## The residual energy -/

/-- One reflection with lag sum `x` on a residual energy `e`: where the new energy is positive, it is not above the old one and
the reflection coefficient is below 1 in magnitude. -/
theorem reflection_bounds [IsStrictOrderedRing K] {e x : K} (he : 0 < e) (h : 0 < e + -(x / e) * x) :
    e + -(x / e) * x ≤ e ∧ |-(x / e)| < 1 := by
  have energy : e + -(x / e) * x = e * (1 - (x / e) ^ 2) := by
    field_simp
    ring
  have square : (x / e) ^ 2 < 1 := by
    rw [energy] at h
    exact sub_pos.mp (pos_of_mul_pos_right h he.le)
  refine ⟨?_, by rwa [abs_neg, ← sq_lt_one_iff_abs_lt_one]⟩
  calc e + -(x / e) * x = e - e * (x / e) ^ 2 := by rw [energy]; ring
    _ ≤ e := sub_le_self e (by positivity)

/-- Settles O24: each order is one reflection, and its test says that the new energy is positive. -/
theorem levdurResidualEnergyNeverRises : Obligations.LevdurResidualEnergyNeverRises := by
  intro K _ _ _ lg pw rnd R
  refine ⟨fun M st start => ?_, fun m st st' hm positive step => ?_⟩
  · obtain ⟨-, lagZero, energy, rfl⟩ := levStart_some start
    rw [exactNum_le_zero_eq_false] at lagZero energy
    -- R117 writes order 1 with the product the other way round.
    have bounds := reflection_bounds (x := rd (exactNum K lg pw rnd) R 1) lagZero
    rw [mul_comm (-_)] at bounds
    exact ⟨energy, bounds energy⟩
  · obtain ⟨energy, rfl⟩ := levStep_some step
    rw [exactNum_le_zero_eq_false] at energy
    obtain ⟨falls, below⟩ := reflection_bounds positive energy
    refine ⟨energy, falls, ?_⟩
    dsimp only
    rw [levUpdate_last _ _ _ (by omega)]
    exact below

/-! ## The normal equations, order by order -/

/-- After order `m`: the coefficients start with 1, the residual energy is row 0 of the normal equations, and the other rows
are zero. -/
structure SolvesNormal (N : NumOps K) (R : List K) (m : Nat) (st : LevState K) : Prop where
  length : st.a.length = m + 1
  lead : rd N st.a 0 = 1
  energy : normalRow (rd N st.a) (rd N R) m 0 = st.alpha
  rows : ∀ i, 1 ≤ i → i ≤ m → normalRow (rd N st.a) (rd N R) m i = 0

section
variable {R : List K}

theorem levFirst_solves (h : rd (exactNum K lg pw rnd) R 0 ≠ 0) :
    SolvesNormal (exactNum K lg pw rnd) R 1 (levFirst (exactNum K lg pw rnd) R) := by
  have row (i : Nat) : normalRow (rd (exactNum K lg pw rnd) (levFirst (exactNum K lg pw rnd) R).a)
      (rd (exactNum K lg pw rnd) R) 1 i = 1 * rd (exactNum K lg pw rnd) R i
        + -(rd (exactNum K lg pw rnd) R 1 / rd (exactNum K lg pw rnd) R 0)
          * rd (exactNum K lg pw rnd) R (if 1 ≤ i then i - 1 else 1 - i) := by
    rw [normalRow, Finset.sum_range_succ, Finset.sum_range_one]
    rfl
  refine ⟨rfl, rfl, ?_, fun i h1 hi => ?_⟩
  · rw [row, one_mul, mul_comm]
    rfl
  · obtain rfl : i = 1 := by omega
    rw [row, one_mul, neg_mul, if_pos le_rfl, Nat.sub_self, div_mul_cancel₀ _ h, add_neg_cancel]

/-- With the leading one and the zero past the order, the update of R117 is one formula at both ends too. -/
theorem rd_levUpdate_exactNum {a : List K} {m : Nat} (rc : K) (length : a.length = m + 1)
    (lead : rd (exactNum K lg pw rnd) a 0 = 1) {k : Nat} (hk : k ≤ m + 1) :
    rd (exactNum K lg pw rnd) (levUpdate (exactNum K lg pw rnd) a rc (m + 1)) k
      = rd (exactNum K lg pw rnd) a k + rc * rd (exactNum K lg pw rnd) a (m + 1 - k) := by
  have past : rd (exactNum K lg pw rnd) a (m + 1) = 0 := rd_of_length_le _ _ length.le
  obtain rfl | h0 := Nat.eq_zero_or_pos k
  · rw [levUpdate_zero, Nat.sub_zero, past, mul_zero, add_zero]
  · obtain rfl | hlt := hk.eq_or_lt
    · rw [levUpdate_last _ _ _ h0, Nat.sub_self, past, lead, mul_one, zero_add]
    · exact levUpdate_inner _ _ _ h0 hlt

/-- Each row of the next order is the row of this one plus the reflection coefficient times the row from the other end. -/
theorem normalRow_levNext {m : Nat} {st : LevState K} (length : st.a.length = m + 1)
    (lead : rd (exactNum K lg pw rnd) st.a 0 = 1) {i : Nat} (hi : i ≤ m + 1) :
    let N := exactNum K lg pw rnd
    normalRow (rd N (levNext N R st (m + 1)).a) (rd N R) (m + 1) i
      = normalRow (rd N st.a) (rd N R) m i
        + levReflection N R st (m + 1) * normalRow (rd N st.a) (rd N R) m (m + 1 - i) := by
  intro N
  have past : rd N st.a (m + 1) = 0 := rd_of_length_le _ _ length.le
  calc normalRow (rd N (levNext N R st (m + 1)).a) (rd N R) (m + 1) i
      = normalRow (fun k => rd N st.a k + levReflection N R st (m + 1) * rd N st.a (m + 1 - k)) (rd N R) (m + 1) i :=
        normalRow_congr _ (fun _ => rd_levUpdate_exactNum _ length lead) i
    _ = normalRow (rd N st.a) (rd N R) (m + 1) i
          + levReflection N R st (m + 1) * normalRow (rd N st.a) (rd N R) (m + 1) (m + 1 - i) := by
        rw [normalRow_add_mul _ fun k => rd N st.a (m + 1 - k), normalRow_reverse _ _ hi]
    _ = _ := by rw [normalRow_succ_of_zero _ past, normalRow_succ_of_zero _ past]

theorem levNext_solves {m : Nat} {st : LevState K} (solves : SolvesNormal (exactNum K lg pw rnd) R m st)
    (positive : st.alpha ≠ 0) :
    SolvesNormal (exactNum K lg pw rnd) R (m + 1) (levNext (exactNum K lg pw rnd) R st (m + 1)) := by
  obtain ⟨length, lead, energy, rows⟩ := solves
  have row {i : Nat} (hi : i ≤ m + 1) := normalRow_levNext (lg := lg) (pw := pw) (rnd := rnd) (R := R) length lead hi
  have reflection : levReflection (exactNum K lg pw rnd) R st (m + 1)
      = -(levSum (exactNum K lg pw rnd) R st.a (m + 1) / st.alpha) := rfl
  refine ⟨levUpdate_length .., (levUpdate_zero ..).trans lead, ?_, fun i h1 hi => ?_⟩
  · rw [row (Nat.zero_le _), energy, Nat.sub_zero, ← levSum_exactNum]
    rfl
  · rw [row hi]
    obtain rfl | hlt := hi.eq_or_lt
    · rw [Nat.sub_self, energy, ← levSum_exactNum, reflection, neg_mul, div_mul_cancel₀ _ positive, add_neg_cancel]
    · rw [rows i h1 (by omega), rows (m + 1 - i) (by omega) (by omega), mul_zero, add_zero]

/-- Where no test fails, each order solves its normal equations. -/
theorem levOrder_solves {M : Nat} (passes : levPasses (exactNum K lg pw rnd) R M = true) {m : Nat} (h1 : 1 ≤ m)
    (hM : m ≤ M) : SolvesNormal (exactNum K lg pw rnd) R m (levOrder (exactNum K lg pw rnd) R m) := by
  obtain ⟨-, lagZero, energies⟩ := levPasses_iff.mp passes
  induction m, h1 using Nat.le_induction with
  | base => exact levFirst_solves (exactNum_le_zero_eq_false.mp lagZero).ne'
  | succ m h1 ih =>
    rw [levOrder_succ _ _ h1]
    exact levNext_solves (ih (by omega)) (exactNum_le_zero_eq_false.mp (energies m h1 (by omega))).ne'

end

/-- Settles O23: a success is the coefficients of order `M`, none of whose tests failed. -/
theorem levdurSolvesTheNormalEquations : Obligations.LevdurSolvesTheNormalEquations := by
  intro K _ _ _ lg pw rnd R a M hM succeeds
  obtain ⟨passes, rfl⟩ := levdur_eq_some hM succeeds
  obtain ⟨length, lead, -, rows⟩ := levOrder_solves passes hM le_rfl
  exact ⟨length, lead, rows⟩

end Sys2Proof.Machine
end

section
/-! SUPPORT. The adapters, the commits and SCHED as instructions (41_adapters.md R131, R134, R137, R140 to R142, R145), the elements
of the schedule, which no other line of a vector step writes, and what holds of them between commands (R143, 43_filters.md R174). -/

namespace Sys2Proof.Machine

variable {α : Type}

/-! ## The adapters -/

/-- Settles O27: both ends of ADAPT_SYN, its window written out. -/
theorem adaptSynWritesPendingOnSuccessOnly : Obligations.AdaptSynWritesPendingOnSuccessOnly := by
  refine ⟨rfl, fun s => ?_⟩
  intro new h
  obtain ⟨failed, ends⟩ | ⟨r, succeeded, ends⟩ := adaptSyn_cases cfg s.toCoreState
  · rw [exec_adaptSyn, ends, show levdurSyn binary32 h.R = none from failed]
    rfl
  · rw [exec_adaptSyn, ends, show levdurSyn binary32 h.R = some r from succeeded]
    rfl

/-- Settles O28: both ends of ADAPT_GAIN, its window written out. -/
theorem adaptGainWritesPendingOnSuccessOnly : Obligations.AdaptGainWritesPendingOnSuccessOnly := by
  refine ⟨rfl, fun s => ?_⟩
  intro new h
  obtain ⟨failed, ends⟩ | ⟨a, succeeded, ends⟩ := adaptGain_cases cfg s.toCoreState
  · rw [exec_adaptGain, ends, show levdur binary32 h.R 10 = none from failed]
    rfl
  · rw [exec_adaptGain, ends, show levdur binary32 h.R 10 = some a from succeeded]
    rfl

/-- The ring the weighting adapter reads (R136). -/
theorem ringOf_weightingSource (s : CoreState α) :
    ringOf s (weightingSource s.MODE) = if s.MODE = .enc then s.QIN else s.QSYN := by
  cases s.MODE <;> rfl

/-- The window of the weighting adapter: 20 samples of its speech ring, whichever that is. -/
theorem ringRead_weightingSource (N : NumOps α) (s : CoreState α) :
    ringRead N s (weightingSource s.MODE) 20
      = tabulate 20 (fun n => rd N (if s.MODE = .enc then s.QIN else s.QSYN) (((5 * s.VX.val : Int) - 20 + n) % 60).toNat) := by
  rw [← ringOf_weightingSource]
  cases h : s.MODE <;> rfl

/-- Settles O29: both ends of ADAPT_WGT, its window that of the mode's ring. -/
theorem adaptWgtWritesPendingOnSuccessOnly : Obligations.AdaptWgtWritesPendingOnSuccessOnly := by
  refine ⟨rfl, fun s => ?_⟩
  intro src new h
  have window : adapterHwin cfg .wgt s.toCoreState (ringRead cfg.num s.toCoreState (weightingSource s.MODE) 20) = h :=
    congrArg _ (ringRead_weightingSource cfg.num s.toCoreState)
  have ends := adaptWgt_cases cfg s.toCoreState
  rw [window] at ends
  obtain ⟨failed, ends⟩ | ⟨a, succeeded, ends⟩ := ends
  · rw [exec_adaptWgt, ends, show levdur binary32 h.R 10 = none from failed]
    rfl
  · rw [exec_adaptWgt, ends, show levdur binary32 h.R 10 = some a from succeeded]
    rfl

/-! ## The commits -/

theorem commitSyn_of_ready {s : CoreState α} (h : s.A_RDY = true) :
    commitSyn s = { s with A_CUR := s.A_PEND, A_RDY := false } := if_pos h

theorem commitSyn_of_not_ready {s : CoreState α} (h : s.A_RDY = false) : commitSyn s = s := if_neg (by simp [h])

theorem commitGain_of_ready {s : CoreState α} (h : s.GP_RDY = true) :
    commitGain s = { s with GP_CUR := s.GP_PEND, GP_RDY := false } := if_pos h

theorem commitGain_of_not_ready {s : CoreState α} (h : s.GP_RDY = false) : commitGain s = s := if_neg (by simp [h])

theorem commitWgt_of_ready {s : CoreState α} (h : s.W_RDY = true) :
    commitWgt s = { s with WZ_CUR := s.WZ_PEND, WP_CUR := s.WP_PEND, W_RDY := false } := if_pos h

theorem commitWgt_of_not_ready {s : CoreState α} (h : s.W_RDY = false) : commitWgt s = s := if_neg (by simp [h])

theorem exec_commitSyn (s : State) : exec .commitSyn s = .next (s.setCore (commitSyn s.toCoreState)) := rfl

theorem exec_commitGain (s : State) : exec .commitGain s = .next (s.setCore (commitGain s.toCoreState)) := rfl

theorem exec_commitWgt (s : State) : exec .commitWgt s = .next (s.setCore (commitWgt s.toCoreState)) := rfl

/-- Settles O31: each commit with its flag set and with its flag clear. -/
theorem commitsCopyPendingExactlyWhenReady : Obligations.CommitsCopyPendingExactlyWhenReady := by
  refine ⟨rfl, rfl, rfl, fun s => ⟨fun ready => ?_, fun clear => ?_, fun ready => ?_, fun clear => ?_, fun ready => ?_,
    fun clear => ?_⟩⟩
  · rw [exec_commitSyn, commitSyn_of_ready ready]; rfl
  · rw [exec_commitSyn, commitSyn_of_not_ready clear]; rfl
  · rw [exec_commitGain, commitGain_of_ready ready]; rfl
  · rw [exec_commitGain, commitGain_of_not_ready clear]; rfl
  · rw [exec_commitWgt, commitWgt_of_ready ready]; rfl
  · rw [exec_commitWgt, commitWgt_of_not_ready clear]; rfl

/-- After COMMIT_SYN its flag is clear, whatever it was. -/
@[simp] theorem commitSyn_A_RDY_false (s : CoreState α) : (commitSyn s).A_RDY = false := by
  cases h : s.A_RDY with
  | true => rw [commitSyn_of_ready h]
  | false => rw [commitSyn_of_not_ready h, h]

@[simp] theorem commitGain_GP_RDY_false (s : CoreState α) : (commitGain s).GP_RDY = false := by
  cases h : s.GP_RDY with
  | true => rw [commitGain_of_ready h]
  | false => rw [commitGain_of_not_ready h, h]

@[simp] theorem commitWgt_W_RDY_false (s : CoreState α) : (commitWgt s).W_RDY = false := by
  cases h : s.W_RDY with
  | true => rw [commitWgt_of_ready h]
  | false => rw [commitWgt_of_not_ready h, h]

/-! ## SCHED -/

theorem sched_p1 (C : Cfg α) {s : CoreState α} (h : s.PHASE = .p1) : sched C s = adaptSyn C s := by rw [sched, h]

theorem sched_p2 (C : Cfg α) {s : CoreState α} (h : s.PHASE = .p2) : sched C s = commitGain (adaptGain C s) := by
  rw [sched, h]

theorem sched_p3 (C : Cfg α) {s : CoreState α} (h : s.PHASE = .p3) :
    sched C s = coreShapen C (coreIresp C (commitWgt (adaptWgt C (commitSyn s)))) := by rw [sched, h]

theorem sched_p4 (C : Cfg α) {s : CoreState α} (h : s.PHASE = .p4) : sched C s = s := by rw [sched, h]

theorem exec_iresp (s : State) : exec .iresp s = .next (s.setCore (coreIresp cfg s.toCoreState)) := rfl

theorem exec_shapen (s : State) : exec .shapen s = .next (s.setCore (coreShapen cfg s.toCoreState)) := rfl

/-- Settles O32: each instruction of a phase runs on what the one before it left. -/
theorem schedRunsThePhaseActions : Obligations.SchedRunsThePhaseActions := by
  intro s
  refine ⟨fun p1 => ⟨_, exec_adaptSyn s, ?_⟩, fun p2 => ⟨_, _, exec_adaptGain s, exec_commitGain _, ?_⟩,
    fun p3 => ⟨_, _, _, _, _, exec_commitSyn s, exec_adaptWgt _, exec_commitWgt _, exec_iresp _, exec_shapen _, ?_⟩,
    fun p4 => ?_⟩
  · rw [exec_sched, sched_p1 cfg p1]
  · rw [exec_sched, sched_p2 cfg p2]; rfl
  · rw [exec_sched, sched_p3 cfg p3]; rfl
  · rw [exec_sched, sched_p4 cfg p4]; rfl

/-! ## The elements of the schedule -/

/-- Two states with the same phase, flags, current coefficients and cache, and the same history of ADAPT_SYN: the elements that in
a vector step SCHED and STEP_END alone write. -/
structure SameSchedule (s t : CoreState α) : Prop where
  phase : s.PHASE = t.PHASE
  aRdy : s.A_RDY = t.A_RDY
  wRdy : s.W_RDY = t.W_RDY
  gpRdy : s.GP_RDY = t.GP_RDY
  aCur : s.A_CUR = t.A_CUR
  wzCur : s.WZ_CUR = t.WZ_CUR
  wpCur : s.WP_CUR = t.WP_CUR
  h : s.H = t.H
  e : s.E = t.E
  sbSyn : s.SB_SYN = t.SB_SYN
  rexpSyn : s.REXP_SYN = t.REXP_SYN

theorem SameSchedule.trans {s t u : CoreState α} (h : SameSchedule s t) (h' : SameSchedule t u) : SameSchedule s u :=
  ⟨h.phase.trans h'.phase, h.aRdy.trans h'.aRdy, h.wRdy.trans h'.wRdy, h.gpRdy.trans h'.gpRdy, h.aCur.trans h'.aCur,
    h.wzCur.trans h'.wzCur, h.wpCur.trans h'.wpCur, h.h.trans h'.h, h.e.trans h'.e, h.sbSyn.trans h'.sbSyn,
    h.rexpSyn.trans h'.rexpSyn⟩

theorem ringWrite_sameSchedule (s : CoreState α) (q : SpeechRing) (v : Vec5 α) : SameSchedule (ringWrite s q v) s := by
  cases q <;> exact ⟨rfl, rfl, rfl, rfl, rfl, rfl, rfl, rfl, rfl, rfl, rfl⟩

theorem coreUpdgain_sameSchedule (C : Cfg α) (et : Vec5 α) (s : CoreState α) : SameSchedule (coreUpdgain C et s) s :=
  ⟨rfl, rfl, rfl, rfl, rfl, rfl, rfl, rfl, rfl, rfl, rfl⟩

theorem coreMemupd_sameSchedule (C : Cfg α) (et : Vec5 α) (s : CoreState α) : SameSchedule (coreMemupd C et s).1 s := by
  constructor <;> simp

theorem corePwfilt_sameSchedule (C : Cfg α) (inp : Vec5 α) (s : CoreState α) : SameSchedule (corePwfilt C inp s).1 s := by
  constructor <;> simp

theorem corePostfilt_sameSchedule (C : Cfg α) (sq : Vec5 α) (s : CoreState α) : SameSchedule (corePostfilt C sq s).1 s :=
  ⟨rfl, rfl, rfl, rfl, rfl, rfl, rfl, rfl, rfl, rfl, rfl⟩

theorem stepEnd_sameSchedule {s t : CoreState α} (h : SameSchedule s t) : SameSchedule (stepEnd s) (stepEnd t) :=
  { h with phase := congrArg nextPhase h.phase }

/-- Of ENC_VEC's lines only SCHED and STEP_END write the schedule's elements (45_controller.md R208). -/
theorem encodeVector_sameSchedule (C : Cfg α) (sv : Vec5 α) (s : CoreState α) :
    SameSchedule (encodeVector C sv s).core (stepEnd (sched C s)) := by
  have weighted := (corePwfilt_sameSchedule C sv _).trans (ringWrite_sameSchedule (sched C s) .qin sv)
  have excited (et : Vec5 α) := (coreUpdgain_sameSchedule C et _).trans ((ringWrite_sameSchedule _ .qexc et).trans weighted)
  exact stepEnd_sameSchedule ((ringWrite_sameSchedule _ .qsyn _).trans ((coreMemupd_sameSchedule C _ _).trans (excited _)))

theorem decodeUnfiltered_sameSchedule (C : Cfg α) (idx : BitVec 10) (s : CoreState α) :
    SameSchedule (decodeUnfiltered C idx s).1 (sched C s) := by
  have excited (et : Vec5 α) := (coreUpdgain_sameSchedule C et _).trans (ringWrite_sameSchedule (sched C s) .qexc et)
  exact (ringWrite_sameSchedule _ .qsyn _).trans ((coreMemupd_sameSchedule C _ _).trans (excited _))

theorem decodeOutput_sameSchedule (C : Cfg α) (u : CoreState α × Vec5 α) : SameSchedule (decodeOutput C u).1 u.1 := by
  unfold decodeOutput
  split
  next => exact corePostfilt_sameSchedule C u.2 u.1
  next => exact ⟨rfl, rfl, rfl, rfl, rfl, rfl, rfl, rfl, rfl, rfl, rfl⟩

/-- Of DEC_VEC's lines only SCHED and STEP_END write the schedule's elements (45_controller.md R214). -/
theorem decodeVector_sameSchedule (C : Cfg α) (idx : BitVec 10) (s : CoreState α) :
    SameSchedule (decodeVector C idx s).core (stepEnd (sched C s)) := by
  rw [(decodeVector_eq C idx s).1]
  exact stepEnd_sameSchedule ((ringWrite_sameSchedule _ .qin _).trans
    ((decodeOutput_sameSchedule C _).trans (decodeUnfiltered_sameSchedule C idx s)))

/-! ## Settled states -/

/-- Being settled is said of the schedule's elements alone. -/
theorem settled_of_sameSchedule {C : Cfg α} {s t : CoreState α} (same : SameSchedule s t) (h : t.Settled C) :
    s.Settled C where
  gpClear := same.gpRdy.trans h.gpClear
  wClear := same.wRdy.trans h.wClear
  aPhase ready := same.phase ▸ h.aPhase (same.aRdy ▸ ready)
  h := by rw [same.h, same.aCur, same.wzCur, same.wpCur, h.h]
  e := by rw [same.e, same.h, h.e]

/-- The start of a session is settled: the flags are clear, and the cache is computed from the coefficients (10_state.md R55). -/
theorem sessionStart_settled (C : Cfg α) (mode : Mode) (pf : Bool) : (sessionStart C mode pf).Settled C :=
  ⟨rfl, rfl, nofun, rfl, rfl⟩

theorem coreReset_settled (C : Cfg α) : (coreReset C).Settled C := ⟨rfl, rfl, nofun, rfl, rfl⟩

/-- SCHED leaves the next phase settled: phase 1 may set the synthesis flag, phase 2 commits what it adapts, phase 3 commits what is
pending and computes the cache anew, and in phase 4 the synthesis flag is already clear. -/
theorem sched_settles (C : Cfg α) {s : CoreState α} (h : s.Settled C) : (stepEnd (sched C s)).Settled C := by
  cases phase : s.PHASE with
  | p1 =>
    rw [sched_p1 C phase]
    exact ⟨by simp [h.gpClear], by simp [h.wClear], fun _ => .inl (by simp [phase, nextPhase]), by simp [h.h],
      by simp [h.e]⟩
  | p2 =>
    rw [sched_p2 C phase]
    exact ⟨by simp, by simp [h.wClear], fun _ => .inr (by simp [phase, nextPhase]), by simp [h.h],
      by simp [h.e]⟩
  | p3 =>
    rw [sched_p3 C phase]
    exact ⟨by simp [h.gpClear], by simp, by simp, by simp, by simp⟩
  | p4 =>
    rw [sched_p4 C phase]
    have clear : s.A_RDY ≠ true := fun ready => by simpa [phase] using h.aPhase ready
    exact ⟨h.gpClear, h.wClear, fun ready => absurd ready clear, h.h, h.e⟩

theorem encodeVector_settled (C : Cfg α) (sv : Vec5 α) {s : CoreState α} (h : s.Settled C) :
    (encodeVector C sv s).core.Settled C := settled_of_sameSchedule (encodeVector_sameSchedule C sv s) (sched_settles C h)

theorem decodeVector_settled (C : Cfg α) (idx : BitVec 10) {s : CoreState α} (h : s.Settled C) :
    (decodeVector C idx s).core.Settled C :=
  settled_of_sameSchedule (decodeVector_sameSchedule C idx s) (sched_settles C h)

/-- New CTRL and ERR: a refusal, a fatal condition, the end of a session. -/
theorem control_settled {C : Cfg α} {s : CoreState α} (h : s.Settled C) (ctrl : Ctrl) (err : ErrCode) :
    CoreState.Settled C { s with CTRL := ctrl, ERR := err } := { h with }

/-! ## Command words -/

/-- A command word is one of the six commands (30_encoding.md R98): CMD hands no micro-operation to the sequencer. -/
theorem decodeCommand_cases {w : HalfWord} {i : Instr} (h : decodeCommand w = .ok i) :
    i = .nop ∨ i = .initEnc ∨ (∃ pf, i = .initDec pf) ∨ i = .encVec ∨ i = .decVec ∨ i = .finish := by
  unfold decodeCommand at h
  split at h
  · exact .inl (plainCommand_eq_ok_iff.mp h).2.symm
  · exact .inr (.inl (plainCommand_eq_ok_iff.mp h).2.symm)
  · obtain ⟨pf, -, initDec⟩ := initDecCommand_eq_ok h
    exact .inr (.inr (.inl ⟨pf, initDec.symm⟩))
  · exact .inr (.inr (.inr (.inl (plainCommand_eq_ok_iff.mp h).2.symm)))
  · exact .inr (.inr (.inr (.inr (.inl (plainCommand_eq_ok_iff.mp h).2.symm))))
  · exact .inr (.inr (.inr (.inr (.inr (plainCommand_eq_ok_iff.mp h).2.symm))))
  · cases h

/-- What an answer says of the flags and the cache: a next state is settled. -/
def AnswerSettled (answer : Answer) : Prop := ∀ t, answer = .next t → t.toCoreState.Settled cfg

theorem answerSettled_next {t : State} (h : t.toCoreState.Settled cfg) : AnswerSettled (.next t) := by
  rintro _ ⟨⟩
  exact h

section
variable {s : State} (h : s.toCoreState.Settled cfg)
include h

theorem execFinish_settled : AnswerSettled (execFinish s) := by
  obtain ⟨-, ends⟩ | ⟨-, refused⟩ := execFinish_cases s
  · rw [ends]
    exact answerSettled_next (control_settled h ..)
  · rw [refused]
    exact answerSettled_next (control_settled h ..)

theorem execEncVec_settled : AnswerSettled (execEncVec s) := by
  obtain ⟨-, refused⟩ | ⟨-, -, waits⟩ | ⟨sv, rest, -, -, runs⟩ := execEncVec_cases s
  · rw [refused]
    exact answerSettled_next (control_settled h ..)
  · rw [waits]
    exact answerSettled_next h
  · rw [runs]
    exact answerSettled_next (encodeVector_settled cfg sv h)

theorem execDecVec_settled : AnswerSettled (execDecVec s) := by
  obtain ⟨-, refused⟩ | ⟨-, -, ends⟩ | ⟨-, -, truncated⟩ | ⟨rest, -, -, outOfRange⟩ | ⟨idx, rest, -, -, runs⟩ :=
    execDecVec_cases s
  · rw [refused]
    exact answerSettled_next (control_settled h ..)
  · rw [ends]
    exact answerSettled_next (control_settled h ..)
  · rw [truncated]
    exact answerSettled_next (control_settled h ..)
  · rw [outOfRange]
    exact answerSettled_next (control_settled h ..)
  · rw [runs]
    exact answerSettled_next (decodeVector_settled cfg idx h)

theorem rejectWord_settled (r : Reject) : AnswerSettled (rejectWord r s) := by
  obtain ⟨-, refused⟩ | ⟨-, -, fatal⟩ | ⟨-, -, refused⟩ | ⟨-, unassigned⟩ := rejectWord_cases r s
  · rw [refused]
    exact answerSettled_next (control_settled h ..)
  · rw [fatal]
    exact answerSettled_next (control_settled h ..)
  · rw [refused]
    exact answerSettled_next (control_settled h ..)
  · rw [unassigned]
    rintro _ ⟨⟩

theorem runWord_command_settled (w : HalfWord) : AnswerSettled (runWord (.cw w) s) := by
  obtain ⟨i, word, runs⟩ | ⟨r, -, rejects⟩ := runWord_cases (.cw w) s
  · rw [runs]
    obtain rfl | rfl | ⟨pf, rfl⟩ | rfl | rfl | rfl := decodeCommand_cases word
    case inl => exact answerSettled_next h
    case inr.inl => exact answerSettled_next (sessionStart_settled cfg .enc false)
    case inr.inr.inl => exact answerSettled_next (sessionStart_settled cfg .dec pf)
    case inr.inr.inr.inl => exact execEncVec_settled h
    case inr.inr.inr.inr.inl => exact execDecVec_settled h
    case inr.inr.inr.inr.inr => exact execFinish_settled h
  · rw [rejects]
    exact rejectWord_settled h r

end

/-- Settles O55: a session starts settled, and a command word leaves a settled state or none. -/
theorem commandsKeepFlagsAndCacheSettled : Obligations.CommandsKeepFlagsAndCacheSettled := by
  refine ⟨sessionStart_settled cfg, coreReset_settled cfg, fun s t w rest h bench cmd stepped => ?_⟩
  have command : step s = runWord (.cw w) { s with CMD := rest } := by rw [step, bench, cmd]
  exact runWord_command_settled (s := { s with CMD := rest }) h w t (command ▸ stepped)

end Sys2Proof.Machine
end

section
/-! SUPPORT. Two sessions over one stream (41_adapters.md R149, 45_controller.md R215): what each line of a vector step reads of the
elements an unpostfiltered decoder's output depends on, and that those elements, held equal before it, are equal after it. -/

namespace Sys2Proof.Machine

variable {α : Type}

/-! ## The synthesis filter does not read the weighting filter -/

/-- A sample of the cascade moves the synthesis memory by the synthesis coefficients alone (43_filters.md R166). -/
theorem cascadeStep_syn_congr (N : NumOps α) (A wz wp wz' wp' : List α) {m m' : CMem α} (x : α) (h : m.syn = m'.syn) :
    (cascadeStep N A wz wp m x).1.syn = (cascadeStep N A wz' wp' m' x).1.syn := by
  simp [cascadeStep, h]

theorem scan5_cascadeStep_syn_congr (N : NumOps α) (A wz wp wz' wp' : List α) {m m' : CMem α} (v : Vec5 α)
    (h : m.syn = m'.syn) :
    (scan5 (cascadeStep N A wz wp) m v).1.syn = (scan5 (cascadeStep N A wz' wp') m' v).1.syn := by
  have sample {m m' : CMem α} (x : α) := cascadeStep_syn_congr N A wz wp wz' wp' (m := m) (m' := m') x
  exact sample _ (sample _ (sample _ (sample _ (sample _ h))))

theorem memupd_congr (N : NumOps α) (A wz wp wz' wp' : List α) (lo hi : α) {m m' : CMem α} (et : Vec5 α)
    (h : m.syn = m'.syn) :
    (memupd N A wz wp lo hi m et).1.syn = (memupd N A wz' wp' lo hi m' et).1.syn
      ∧ (memupd N A wz wp lo hi m et).2 = (memupd N A wz' wp' lo hi m' et).2 := by
  simp only [memupd, scan5_cascadeStep_syn_congr N A wz wp wz' wp' et h, and_self]

/-! ## Equal views: the adapters and the schedule -/

section
variable {c d : CoreState α}

theorem SameDecoderView.symm (h : SameDecoderView c d) : SameDecoderView d c :=
  ⟨h.phase.symm, h.vx.symm, h.aCur.symm, h.aPend.symm, h.aRdy.symm, h.gpCur.symm, h.gpPend.symm, h.gpRdy.symm,
    h.gstate.symm, h.qlg.symm, h.qsyn.symm, h.synMem.symm, h.sbSyn.symm, h.rexpSyn.symm, h.sbG.symm, h.rexpG.symm⟩

theorem SameDecoderView.trans {f : CoreState α} (h : SameDecoderView c d) (h' : SameDecoderView d f) :
    SameDecoderView c f :=
  ⟨h.phase.trans h'.phase, h.vx.trans h'.vx, h.aCur.trans h'.aCur, h.aPend.trans h'.aPend, h.aRdy.trans h'.aRdy,
    h.gpCur.trans h'.gpCur, h.gpPend.trans h'.gpPend, h.gpRdy.trans h'.gpRdy, h.gstate.trans h'.gstate,
    h.qlg.trans h'.qlg, h.qsyn.trans h'.qsyn, h.synMem.trans h'.synMem, h.sbSyn.trans h'.sbSyn,
    h.rexpSyn.trans h'.rexpSyn, h.sbG.trans h'.sbG, h.rexpG.trans h'.rexpG⟩

theorem storeHwin_syn_sameView (h : SameDecoderView c d) (hw : HwinResult α) :
    SameDecoderView (storeHwin .syn c hw) (storeHwin .syn d hw) := { h with sbSyn := rfl, rexpSyn := rfl }

theorem storeHwin_gain_sameView (h : SameDecoderView c d) (hw : HwinResult α) :
    SameDecoderView (storeHwin .gain c hw) (storeHwin .gain d hw) := { h with sbG := rfl, rexpG := rfl }

theorem setPendingSyn_sameView (h : SameDecoderView c d) (a : List α) :
    SameDecoderView (setPendingSyn c a) (setPendingSyn d a) := { h with aPend := rfl, aRdy := rfl }

theorem setPendingGain_sameView (h : SameDecoderView c d) (a : List α) :
    SameDecoderView (setPendingGain c a) (setPendingGain d a) := { h with gpPend := rfl, gpRdy := rfl }

theorem storeLevSyn_sameView (h : SameDecoderView c d) (r : LevSyn α) :
    SameDecoderView (storeLevSyn c r) (storeLevSyn d r) := { h with }

theorem commitSyn_sameView (h : SameDecoderView c d) : SameDecoderView (commitSyn c) (commitSyn d) := by
  cases ready : d.A_RDY with
  | true =>
    rw [commitSyn_of_ready ready, commitSyn_of_ready (h.aRdy.trans ready)]
    exact { h with aCur := h.aPend, aRdy := rfl }
  | false => rwa [commitSyn_of_not_ready ready, commitSyn_of_not_ready (h.aRdy.trans ready)]

theorem commitGain_sameView (h : SameDecoderView c d) : SameDecoderView (commitGain c) (commitGain d) := by
  cases ready : d.GP_RDY with
  | true =>
    rw [commitGain_of_ready ready, commitGain_of_ready (h.gpRdy.trans ready)]
    exact { h with gpCur := h.gpPend, gpRdy := rfl }
  | false => rwa [commitGain_of_not_ready ready, commitGain_of_not_ready (h.gpRdy.trans ready)]

/-- ADAPT_SYN feeds HWIN the same in both. -/
theorem adaptSyn_hwin_congr (C : Cfg α) (h : SameDecoderView c d) :
    adapterHwin C .syn c (ringRead C.num c (.speech .qsyn) 20) = adapterHwin C .syn d (ringRead C.num d (.speech .qsyn) 20) := by
  simp only [adapterHwin, ringRead, ringOf, h.qsyn, h.vx, h.sbSyn, h.rexpSyn]

theorem adaptGain_hwin_congr (C : Cfg α) (h : SameDecoderView c d) :
    adapterHwin C .gain c (ringRead C.num c .qlg 4) = adapterHwin C .gain d (ringRead C.num d .qlg 4) := by
  simp only [adapterHwin, ringRead, ringOf, h.qlg, h.vx, h.sbG, h.rexpG]

/-- ADAPT_SYN fails in both, or succeeds in both with the same results. -/
theorem adaptSyn_together (C : Cfg α) (h : SameDecoderView c d) :
    (∃ hw, adaptSyn C c = storeHwin .syn c hw ∧ adaptSyn C d = storeHwin .syn d hw)
      ∨ ∃ hw r a, adaptSyn C c = setPendingSyn (storeLevSyn (storeHwin .syn c hw) r) a
        ∧ adaptSyn C d = setPendingSyn (storeLevSyn (storeHwin .syn d hw) r) a := by
  have left := adaptSyn_cases C c
  rw [adaptSyn_hwin_congr C h] at left
  obtain ⟨failed, left⟩ | ⟨r, succeeded, left⟩ := left
  · obtain ⟨-, right⟩ | ⟨r', succeeded', -⟩ := adaptSyn_cases C d
    · exact .inl ⟨_, left, right⟩
    · exact nomatch failed.symm.trans succeeded'
  · obtain ⟨failed', -⟩ | ⟨r', succeeded', right⟩ := adaptSyn_cases C d
    · exact nomatch failed'.symm.trans succeeded
    · obtain rfl := Option.some.inj (succeeded.symm.trans succeeded')
      exact .inr ⟨_, r, _, left, right⟩

theorem adaptGain_together (C : Cfg α) (h : SameDecoderView c d) :
    (∃ hw, adaptGain C c = storeHwin .gain c hw ∧ adaptGain C d = storeHwin .gain d hw)
      ∨ ∃ hw a, adaptGain C c = setPendingGain (storeHwin .gain c hw) a
        ∧ adaptGain C d = setPendingGain (storeHwin .gain d hw) a := by
  have left := adaptGain_cases C c
  rw [adaptGain_hwin_congr C h] at left
  obtain ⟨failed, left⟩ | ⟨a, succeeded, left⟩ := left
  · obtain ⟨-, right⟩ | ⟨a', succeeded', -⟩ := adaptGain_cases C d
    · exact .inl ⟨_, left, right⟩
    · exact nomatch failed.symm.trans succeeded'
  · obtain ⟨failed', -⟩ | ⟨a', succeeded', right⟩ := adaptGain_cases C d
    · exact nomatch failed'.symm.trans succeeded
    · obtain rfl := Option.some.inj (succeeded.symm.trans succeeded')
      exact .inr ⟨_, _, left, right⟩

theorem adaptSyn_sameView (C : Cfg α) (h : SameDecoderView c d) : SameDecoderView (adaptSyn C c) (adaptSyn C d) := by
  obtain ⟨hw, left, right⟩ | ⟨hw, r, a, left, right⟩ := adaptSyn_together C h
  · rw [left, right]
    exact storeHwin_syn_sameView h hw
  · rw [left, right]
    exact setPendingSyn_sameView (storeLevSyn_sameView (storeHwin_syn_sameView h hw) r) a

theorem adaptGain_sameView (C : Cfg α) (h : SameDecoderView c d) : SameDecoderView (adaptGain C c) (adaptGain C d) := by
  obtain ⟨hw, left, right⟩ | ⟨hw, a, left, right⟩ := adaptGain_together C h
  · rw [left, right]
    exact storeHwin_gain_sameView h hw
  · rw [left, right]
    exact setPendingGain_sameView (storeHwin_gain_sameView h hw) a

/-- Phase 3 after COMMIT_SYN, whatever the weighting adapter reads, writes no element of the view. -/
theorem weighting_sameView (C : Cfg α) (s : CoreState α) :
    SameDecoderView (coreShapen C (coreIresp C (commitWgt (adaptWgt C s)))) s := by
  constructor <;> simp

theorem sched_sameView (C : Cfg α) (h : SameDecoderView c d) : SameDecoderView (sched C c) (sched C d) := by
  cases phase : d.PHASE with
  | p1 =>
    rw [sched_p1 C phase, sched_p1 C (h.phase.trans phase)]
    exact adaptSyn_sameView C h
  | p2 =>
    rw [sched_p2 C phase, sched_p2 C (h.phase.trans phase)]
    exact commitGain_sameView (adaptGain_sameView C h)
  | p3 =>
    rw [sched_p3 C phase, sched_p3 C (h.phase.trans phase)]
    exact (weighting_sameView C _).trans ((commitSyn_sameView h).trans (weighting_sameView C _).symm)
  | p4 => rwa [sched_p4 C phase, sched_p4 C (h.phase.trans phase)]

/-! ## Equal views: the rest of a vector step -/

theorem corePredgain_congr (C : Cfg α) (h : SameDecoderView c d) : corePredgain C c = corePredgain C d := by
  rw [corePredgain, corePredgain, h.gpCur, h.gstate]

theorem ringWrite_qin_sameView (h : SameDecoderView c d) (v w : Vec5 α) :
    SameDecoderView (ringWrite c .qin v) (ringWrite d .qin w) := { h with }

theorem ringWrite_qexc_sameView (h : SameDecoderView c d) (v w : Vec5 α) :
    SameDecoderView (ringWrite c .qexc v) (ringWrite d .qexc w) := { h with }

theorem ringWrite_qsyn_sameView (h : SameDecoderView c d) (v : Vec5 α) :
    SameDecoderView (ringWrite c .qsyn v) (ringWrite d .qsyn v) :=
  { h with qsyn := congrArg₂ (writeSlot · · v) h.qsyn h.vx }

theorem coreUpdgain_sameView (C : Cfg α) (et : Vec5 α) (h : SameDecoderView c d) :
    SameDecoderView (coreUpdgain C et c) (coreUpdgain C et d) :=
  { h with gstate := by simp [h.gstate], qlg := by simp [h.qlg, h.vx] }

theorem coreMemupd_congr (C : Cfg α) (et : Vec5 α) (h : SameDecoderView c d) :
    (coreMemupd C et c).1.SYN_MEM = (coreMemupd C et d).1.SYN_MEM ∧ (coreMemupd C et c).2 = (coreMemupd C et d).2 := by
  unfold coreMemupd
  rw [h.aCur]
  exact memupd_congr C.num d.A_CUR c.WZ_CUR c.WP_CUR d.WZ_CUR d.WP_CUR C.stateMin C.stateMax et h.synMem

/-- New memories of the cascade: the view holds that of the synthesis filter. -/
theorem cascadeMemory_sameView {syn syn' z p z' p' : List α} (h : SameDecoderView c d) (same : syn = syn') :
    SameDecoderView { c with SYN_MEM := syn, WF_ZMEM := z, WF_PMEM := p }
      { d with SYN_MEM := syn', WF_ZMEM := z', WF_PMEM := p' } := { h with synMem := same }

theorem coreMemupd_sameView (C : Cfg α) (et : Vec5 α) (h : SameDecoderView c d) :
    SameDecoderView (coreMemupd C et c).1 (coreMemupd C et d).1 :=
  cascadeMemory_sameView h (coreMemupd_congr C et h).1

theorem stepEnd_sameView (h : SameDecoderView c d) : SameDecoderView (stepEnd c) (stepEnd d) :=
  { h with phase := congrArg nextPhase h.phase, vx := congrArg nextSlot h.vx }

end

/-! ## From the excitation to the synthesized vector -/

@[simp] theorem ringWrite_qexc_QEXC (v : Vec5 α) (s : CoreState α) :
    (ringWrite s .qexc v).QEXC = writeSlot s.QEXC s.VX v := rfl

@[simp] theorem ringWrite_qsyn_QEXC (v : Vec5 α) (s : CoreState α) : (ringWrite s .qsyn v).QEXC = s.QEXC := rfl

/-- The lines both vector commands share once the excitation stands (R209 a: lines 11 to 14 of R208, 4 to 7 of R214): it goes into
its ring, the gain history and the filters, and the synthesized vector into its ring. -/
def synthesizeVector (C : Cfg α) (et : Vec5 α) (s : CoreState α) : CoreState α × Vec5 α :=
  let mu := coreMemupd C et (coreUpdgain C et (ringWrite s .qexc et))
  (ringWrite mu.1 .qsyn mu.2, mu.2)

theorem decodeUnfiltered_eq (C : Cfg α) (idx : BitVec 10) (s : CoreState α) :
    decodeUnfiltered C idx s = synthesizeVector C (excite C idx (corePredgain C (sched C s))) (sched C s) := rfl

@[simp] theorem synthesizeVector_QEXC (C : Cfg α) (et : Vec5 α) (s : CoreState α) :
    (synthesizeVector C et s).1.QEXC = writeSlot s.QEXC s.VX et := by simp [synthesizeVector]

@[simp] theorem synthesizeVector_PF_A10 (C : Cfg α) (et : Vec5 α) (s : CoreState α) :
    (synthesizeVector C et s).1.PF_A10 = s.PF_A10 := by simp [synthesizeVector]

@[simp] theorem synthesizeVector_PF_K1 (C : Cfg α) (et : Vec5 α) (s : CoreState α) :
    (synthesizeVector C et s).1.PF_K1 = s.PF_K1 := by simp [synthesizeVector]

/-- What ENC_VEC has written before it predicts the gain (lines 1, 2 and 4 of R208; lines 3 and 5 write no element). -/
def encodeWeighted (C : Cfg α) (sv : Vec5 α) (s : CoreState α) : CoreState α :=
  (corePwfilt C sv (ringWrite (sched C s) .qin sv)).1

/-- R208 in three parts: up to the weighted input, from the excitation to the synthesized vector, STEP_END. -/
theorem encodeVector_core_eq (C : Cfg α) (sv : Vec5 α) (s : CoreState α) :
    (encodeVector C sv s).core = stepEnd (synthesizeVector C
      (excite C (encodeVector C sv s).idx (corePredgain C (encodeWeighted C sv s))) (encodeWeighted C sv s)).1 := by
  simp only [encodeVector, synthesizeVector, encodeWeighted]

section
variable {c d : CoreState α}

/-- Of the same excitation both make the same vector, and views held equal stay equal. -/
theorem synthesizeVector_sameView (C : Cfg α) (et : Vec5 α) (h : SameDecoderView c d) :
    SameDecoderView (synthesizeVector C et c).1 (synthesizeVector C et d).1
      ∧ (synthesizeVector C et c).2 = (synthesizeVector C et d).2 := by
  have excited := coreUpdgain_sameView C et (ringWrite_qexc_sameView h et et)
  have same : (synthesizeVector C et c).2 = (synthesizeVector C et d).2 := (coreMemupd_congr C et excited).2
  refine ⟨?_, same⟩
  have memories := coreMemupd_sameView C et excited
  rw [synthesizeVector, (coreMemupd_congr C et excited).2]
  exact ringWrite_qsyn_sameView memories _

theorem decodeUnfiltered_sameView (C : Cfg α) (idx : BitVec 10) (h : SameDecoderView c d) :
    SameDecoderView (decodeUnfiltered C idx c).1 (decodeUnfiltered C idx d).1
      ∧ (decodeUnfiltered C idx c).2 = (decodeUnfiltered C idx d).2 := by
  have scheduled := sched_sameView C h
  rw [decodeUnfiltered_eq, decodeUnfiltered_eq, corePredgain_congr C scheduled]
  exact synthesizeVector_sameView C _ scheduled

/-! ## An unpostfiltered decoder -/

theorem decodeOutput_of_off (C : Cfg α) {u : CoreState α × Vec5 α} (h : u.1.PF_EN = false) : decodeOutput C u = u :=
  if_neg (by simp [h])

theorem decodeVector_of_off (C : Cfg α) (idx : BitVec 10) {s : CoreState α} (off : s.PF_EN = false) :
    let u := decodeUnfiltered C idx s
    (decodeVector C idx s).core = stepEnd (ringWrite u.1 .qin u.2) ∧ (decodeVector C idx s).out = u.2 := by
  have unfiltered := decodeOutput_of_off C (u := decodeUnfiltered C idx s) (by simp [off])
  have ends := decodeVector_eq C idx s
  rwa [unfiltered] at ends

theorem decodeVector_sameView (C : Cfg α) (idx : BitVec 10) (hc : c.PF_EN = false) (hd : d.PF_EN = false)
    (h : SameDecoderView c d) :
    SameDecoderView (decodeVector C idx c).core (decodeVector C idx d).core
      ∧ (decodeVector C idx c).out = (decodeVector C idx d).out := by
  obtain ⟨coreC, outC⟩ := decodeVector_of_off C idx hc
  obtain ⟨coreD, outD⟩ := decodeVector_of_off C idx hd
  obtain ⟨view, out⟩ := decodeUnfiltered_sameView C idx h
  rw [coreC, coreD, outC, outD]
  exact ⟨stepEnd_sameView (ringWrite_qin_sameView view _ _), out⟩

@[simp] theorem decodeVector_PF_EN (C : Cfg α) (idx : BitVec 10) (s : CoreState α) :
    (decodeVector C idx s).core.PF_EN = s.PF_EN := by
  obtain ⟨-, -, pfEn, -⟩ := decodeVector_control C idx s
  exact pfEn

end

/-- Settles O59, by induction on the list of indices: the first vector keeps the views equal and the postfilter off. -/
theorem decoderOutputDependsOnItsViewOnly : Obligations.DecoderOutputDependsOnItsViewOnly := by
  intro α C c d idxs hc hd h
  induction idxs generalizing c d with
  | nil => exact ⟨rfl, h⟩
  | cons idx rest ih =>
    obtain ⟨view, out⟩ := decodeVector_sameView C idx hc hd h
    obtain ⟨outs, final⟩ := ih _ _ (by simp [hc]) (by simp [hd]) view
    exact ⟨congrArg₂ List.cons out outs, final⟩

/-! ## An encoder and a decoder -/

section
variable {e d : CoreState α}

theorem InStep.view (h : InStep e d) : SameDecoderView e d := { h with }

/-- Beside the view an encoder and its decoder share the excitation ring and the postfilter's cache. -/
theorem inStep_of_view (view : SameDecoderView e d) (qexc : e.QEXC = d.QEXC) (pfA10 : e.PF_A10 = d.PF_A10)
    (pfK1 : e.PF_K1 = d.PF_K1) : InStep e d := { view with qexc, pfA10, pfK1 }

/-- ADAPT_SYN's cache too is written in both or in neither. -/
theorem adaptSyn_inStep (C : Cfg α) (h : InStep e d) : InStep (adaptSyn C e) (adaptSyn C d) := by
  have view := adaptSyn_sameView C h.view
  obtain ⟨hw, left, right⟩ | ⟨hw, r, a, left, right⟩ := adaptSyn_together C h.view
  · rw [left, right] at view ⊢
    exact inStep_of_view view h.qexc h.pfA10 h.pfK1
  · rw [left, right] at view ⊢
    exact inStep_of_view view h.qexc rfl rfl

theorem sched_inStep (C : Cfg α) (h : InStep e d) : InStep (sched C e) (sched C d) := by
  have qexc : (sched C e).QEXC = (sched C d).QEXC := by simp [h.qexc]
  cases phase : d.PHASE with
  | p1 =>
    rw [sched_p1 C phase, sched_p1 C (h.phase.trans phase)]
    exact adaptSyn_inStep C h
  | p2 =>
    refine inStep_of_view (sched_sameView C h.view) qexc ?_ ?_ <;>
      simp [sched_p2 C phase, sched_p2 C (h.phase.trans phase), h.pfA10, h.pfK1]
  | p3 =>
    refine inStep_of_view (sched_sameView C h.view) qexc ?_ ?_ <;>
      simp [sched_p3 C phase, sched_p3 C (h.phase.trans phase), h.pfA10, h.pfK1]
  | p4 => rwa [sched_p4 C phase, sched_p4 C (h.phase.trans phase)]

/-- The encoder's input ring and the memories of its input path are nothing the two share. -/
theorem inputPath_inStep (h : InStep e d) (q z p : List α) :
    InStep { e with QIN := q, PWF_ZMEM := z, PWF_PMEM := p } d := { h with }

theorem encodeWeighted_inStep (C : Cfg α) (sv : Vec5 α) (h : InStep e d) :
    InStep (encodeWeighted C sv e) (sched C d) := inputPath_inStep (sched_inStep C h) ..

theorem synthesizeVector_inStep (C : Cfg α) (et : Vec5 α) (h : InStep e d) :
    InStep (synthesizeVector C et e).1 (synthesizeVector C et d).1 :=
  inStep_of_view (synthesizeVector_sameView C et h.view).1 (by simp [h.qexc, h.vx]) (by simp [h.pfA10]) (by simp [h.pfK1])

/-- The decoder's postfilter and output ring are nothing the two share. -/
theorem output_inStep (C : Cfg α) {u : CoreState α × Vec5 α} (h : InStep e u.1) (v : Vec5 α) :
    InStep e (ringWrite (decodeOutput C u).1 .qin v) := by
  unfold decodeOutput
  split
  next => exact { h with }
  next => exact { h with }

theorem stepEnd_inStep (h : InStep e d) : InStep (stepEnd e) (stepEnd d) :=
  { h with phase := congrArg nextPhase h.phase, vx := congrArg nextSlot h.vx }

/-- R149 over one vector, any NUM and any configuration, whatever the decoder's postfilter bit. -/
theorem vector_inStep (C : Cfg α) (sv : Vec5 α) (h : InStep e d) :
    InStep (encodeVector C sv e).core (decodeVector C (encodeVector C sv e).idx d).core := by
  have weighted := encodeWeighted_inStep C sv h
  rw [(decodeVector_eq C _ d).1, encodeVector_core_eq, corePredgain_congr C weighted.view]
  exact stepEnd_inStep (output_inStep C (synthesizeVector_inStep C _ weighted) _)

end

/-! ## The index on the wire -/

/-- The two bytes ENC_VEC emits are a legal index word, and DEC_VEC takes the ten bits back (30_encoding.md R94, R95). -/
theorem takeIndex_indexBytes (idx : BitVec 10) (more : List Byte) : takeIndex (indexBytes idx ++ more) = .legal idx more := by
  have value : (idx.setWidth 16).toNat = idx.toNat := by
    rw [BitVec.toNat_setWidth]
    exact Nat.mod_eq_of_lt (by omega)
  have legal : indexLegal (idx.setWidth 16) = true := indexLegal_iff.mpr (by omega)
  have index : (idx.setWidth 16).extractLsb' 0 10 = idx :=
    BitVec.eq_of_toNat_eq (by rw [BitVec.extractLsb'_toNat, Nat.shiftRight_zero]; omega)
  simp only [indexBytes, List.cons_append, List.nil_append, takeIndex, assembleIndex_wordBytes, legal, if_true, index]

/-- Settles O56: the decoder takes the encoder's index off the wire, and one vector keeps the two in step. -/
theorem encoderAndDecoderStayInStep : Obligations.EncoderAndDecoderStayInStep := by
  intro e d sv rest more eRunning enc dRunning dec h din
  have eReady : vectorReady .enc e.toCoreState = true := (vectorReady_iff ..).mpr ⟨eRunning, enc⟩
  have dReady : vectorReady .dec d.toCoreState = true := (vectorReady_iff ..).mpr ⟨dRunning, dec⟩
  have taken : takeVector e.DIN_SMP = some (sv, rest) := din ▸ takeVector_toList_append sv rest
  obtain ⟨b0, b1, bytes, -⟩ := indexBytes_cases (encodeVector cfg sv e.toCoreState).idx
  have received : takeIndex (b0 :: b1 :: more) = .legal (encodeVector cfg sv e.toCoreState).idx more := by
    rw [← takeIndex_indexBytes, bytes]
    rfl
  obtain ⟨ctrl, mode, -⟩ := decodeVector_control cfg (encodeVector cfg sv e.toCoreState).idx d.toCoreState
  exact ⟨_, _, b0, b1, execEncVec_runs eReady taken, congrArg _ bytes,
    execDecVec_runs (s := { d with DIN_IDX := b0 :: b1 :: more }) dReady received, vector_inStep cfg sv h,
    ctrl.trans dRunning, mode.trans dec, rfl⟩

/-- Sessions of an encoder and a decoder start in step (10_state.md R52 to R56). -/
theorem sessionStart_inStep (C : Cfg α) (pf : Bool) : InStep (sessionStart C .enc false) (sessionStart C .dec pf) := by
  constructor <;> rfl

/-- One index a vector. -/
theorem encodeAll_length (C : Cfg α) (svs : List (Vec5 α)) (s : CoreState α) : (encodeAll C svs s).2.length = svs.length := by
  induction svs generalizing s with
  | nil => rfl
  | cons sv rest ih => exact congrArg Nat.succ (ih _)

/-- One output vector an index. -/
theorem decodeAll_length (C : Cfg α) (idxs : List (BitVec 10)) (s : CoreState α) :
    (decodeAll C idxs s).2.length = idxs.length := by
  induction idxs generalizing s with
  | nil => rfl
  | cons idx rest ih => exact congrArg Nat.succ (ih _)

/-- R149 over a list of vectors, from any two states in step. -/
theorem stream_inStep (C : Cfg α) (svs : List (Vec5 α)) {e d : CoreState α} (h : InStep e d) :
    InStep (encodeAll C svs e).1 (decodeAll C (encodeAll C svs e).2 d).1 := by
  induction svs generalizing e d with
  | nil => exact h
  | cons sv rest ih => exact ih (vector_inStep C sv h)

/-- Settles O57: two sessions start in step and stay so over the stream. -/
theorem wholeStreamsRoundTrip : Obligations.WholeStreamsRoundTrip := by
  intro α C svs pf enc dec
  have indices : enc.2.length = svs.length := encodeAll_length C svs _
  exact ⟨indices, (decodeAll_length C enc.2 _).trans indices, stream_inStep C svs (sessionStart_inStep C pf)⟩

end Sys2Proof.Machine
end

section
/-! SUPPORT. The first vectors of a session in exact arithmetic (41_adapters.md R148): lag 50 of the synthesis adapter is zero while
no two samples fifty apart in its history are both past the leading zeros, so its first three runs fail. -/

namespace Sys2Proof.Machine

variable {α : Type}

/-! ## What is asked of NUM -/

/-- The laws of zero that exact arithmetic has and the argument of R148 needs. -/
structure ZeroLaws (N : NumOps α) : Prop where
  zeroMul : ∀ x, N.mul N.zero x = N.zero
  mulZero : ∀ x, N.mul x N.zero = N.zero
  addZero : N.add N.zero N.zero = N.zero
  eqZero : N.eq N.zero N.zero = true

theorem exactNum_zeroLaws (K : Type) [Field K] [LinearOrder K] (lg pw : K → K) (rnd : K → Int) :
    ZeroLaws (exactNum K lg pw rnd) where
  zeroMul := zero_mul
  mulZero := mul_zero
  addZero := add_zero 0
  eqZero := decide_eq_true rfl

theorem sumFrom_zeros {N : NumOps α} (laws : ZeroLaws N) {lo cnt : Nat} {t : Nat → α}
    (h : ∀ n, lo ≤ n → n < lo + cnt → t n = N.zero) : sumFrom N lo cnt t = N.zero := by
  induction cnt with
  | zero => rfl
  | succ cnt ih =>
    rw [sumFrom_succ, ih fun n lower upper => h n lower (by omega), h (lo + cnt) (by omega) (by omega), laws.addZero]

/-- A lag product sum is zero where the earlier sample of every product is. -/
theorem lagProducts_of_earlier_zero {N : NumOps α} (laws : ZeroLaws N) {sb : List α} {WN : Nat → α} {lo cnt i : Nat}
    (h : ∀ n, lo ≤ n → n < lo + cnt → rd N sb (n - i) = N.zero) : lagProducts N sb WN lo cnt i = N.zero :=
  sumFrom_zeros laws fun n lower upper => by
    simp only [windowed, h n lower upper, laws.zeroMul, laws.mulZero]

/-! ## ADAPT_SYN on a short signal -/

/-- All but the newest `tail` entries of a history of the synthesis adapter are zero. -/
def LeadingZeros (C : Cfg α) (tail : Nat) (sb : List α) : Prop := ∀ n, n + tail < 70 + C.nonr → rd C.num sb n = C.num.zero

/-- HWIN shifts the history by its frame of 20 (40_lpc_core.md R111). -/
theorem adapterHwin_syn_leadingZeros {C : Cfg α} {s : CoreState α} {tail : Nat} (h : LeadingZeros C tail s.SB_SYN)
    (new : List α) : LeadingZeros C (tail + 20) (adapterHwin C .syn s new).SB := fun n hn => by
  have inside : n < 50 + 20 + C.nonr - 20 := by omega
  exact ((adapterHwin_answers C .syn s new).old n inside).trans (h (n + 20) (by omega))

/-- A frame of zeros leaves a history of zeros one. -/
theorem adapterHwin_syn_zeros {C : Cfg α} {s : CoreState α} {new : List α} (h : LeadingZeros C 0 s.SB_SYN)
    (frame : ∀ n < 20, rd C.num new n = C.num.zero) : LeadingZeros C 0 (adapterHwin C .syn s new).SB := fun n hn => by
  obtain earlier | later := Nat.lt_or_ge n (50 + 20 + C.nonr - 20)
  · exact ((adapterHwin_answers C .syn s new).old n earlier).trans (h (n + 20) (by omega))
  · obtain ⟨k, rfl⟩ := Nat.exists_eq_add_of_le later
    have inside : k < 20 := by omega
    exact ((adapterHwin_answers C .syn s new).new k inside).trans (frame k inside)

/-- While at most 50 samples stand behind the leading zeros, lag 50 of the recursive part stays zero, and so is that of the
result. -/
theorem adapterHwin_syn_lag50 {C : Cfg α} (laws : ZeroLaws C.num) {s : CoreState α} {new : List α} {tail : Nat}
    (short : tail ≤ 50) (history : LeadingZeros C tail (adapterHwin C .syn s new).SB)
    (recursivePart : rd C.num s.REXP_SYN 50 = C.num.zero) :
    rd C.num (adapterHwin C .syn s new).REXP 50 = C.num.zero ∧ rd C.num (adapterHwin C .syn s new).R 50 = C.num.zero := by
  have answers := adapterHwin_answers C .syn s new
  generalize adapterHwin C .syn s new = h at *
  have products {lo cnt : Nat} (inside : lo + cnt ≤ 70 + C.nonr) (lower : 50 ≤ lo) :
      lagProducts C.num h.SB C.wnSyn lo cnt 50 = C.num.zero :=
    lagProducts_of_earlier_zero laws fun n _ _ => history (n - 50) (by omega)
  have rexp : rd C.num h.REXP 50 = C.num.zero := by
    calc rd C.num h.REXP 50
        = C.num.add (C.num.mul C.decSyn (rd C.num s.REXP_SYN 50)) (lagProducts C.num h.SB C.wnSyn 50 20 50) :=
          answers.recursive 50 le_rfl
      _ = C.num.zero := by rw [recursivePart, products (by omega) le_rfl, laws.mulZero, laws.addZero]
  refine ⟨rexp, ?_⟩
  calc rd C.num h.R 50
      = C.num.add (rd C.num h.REXP 50) (lagProducts C.num h.SB C.wnSyn 70 C.nonr 50) :=
        answers.lag 50 (by decide) le_rfl
    _ = C.num.zero := by rw [rexp, products le_rfl (by decide), laws.addZero]

/-- The history of a session in which at most `tail` samples have reached the synthesis adapter. -/
structure ShortHistory (C : Cfg α) (tail : Nat) (s : CoreState α) : Prop where
  leading : LeadingZeros C tail s.SB_SYN
  recursivePart : rd C.num s.REXP_SYN 50 = C.num.zero

/-- The terminal lag test of 40_lpc_core.md R117 fails, so ADAPT_SYN leaves the pending set and the flag as they are. -/
theorem adaptSyn_of_short {C : Cfg α} (laws : ZeroLaws C.num) {s : CoreState α} {tail : Nat} (short : tail ≤ 50)
    (recursivePart : rd C.num s.REXP_SYN 50 = C.num.zero)
    (history : LeadingZeros C tail (adapterHwin C .syn s (ringRead C.num s (.speech .qsyn) 20)).SB) :
    (adaptSyn C s).A_RDY = s.A_RDY ∧ ShortHistory C tail (adaptSyn C s) := by
  obtain ⟨rexp, terminal⟩ := adapterHwin_syn_lag50 laws short history recursivePart
  obtain ⟨-, fails⟩ | ⟨r, succeeds, -⟩ := adaptSyn_cases C s
  · rw [fails]
    exact ⟨rfl, history, rexp⟩
  · have fails := levdurSyn_eq_none.mpr (levdur_of_terminal_lag_zero (by rw [terminal]; exact laws.eqZero))
    exact nomatch fails.symm.trans succeeds

/-- What a synthesis ring of zeros gives RINGRD. -/
theorem rd_ringRead_qsyn_zeros (N : NumOps α) {s : CoreState α} (h : s.QSYN = zeros N 60) {len n : Nat} (hn : n < len) :
    rd N (ringRead N s (.speech .qsyn) len) n = N.zero := by
  have ring : ringOf s (.speech .qsyn) = List.replicate 60 N.zero := h
  rw [rd_ringRead _ _ _ hn, ring, rd_replicate_zero]

/-! ## The first vectors of a session -/

/-- After `n` vectors of a session, `n` at most fourteen: the synthesis coefficients are the initial ones, and through the twelfth
vector none are pending, since what ADAPT_SYN has been fed is too short. It runs first on the zeros of the reset. -/
structure EarlySession (C : Cfg α) (n : Nat) (s : CoreState α) : Prop where
  phase : s.PHASE.toNat = n % 4 + 1
  aCur : s.A_CUR = C.aInit
  ring : n = 0 → s.QSYN = zeros C.num 60
  noPending : n ≤ 12 → s.A_RDY = false
  history : n ≤ 12 → ShortHistory C (20 * ((n - 1) / 4)) s

theorem sessionStart_early {C : Cfg α} (phase : C.phaseInit = .p1) (mode : Mode) (pf : Bool) :
    EarlySession C 0 (sessionStart C mode pf) where
  phase := congrArg Phase.toNat phase
  aCur := rfl
  ring _ := rfl
  noPending _ := rfl
  history _ := ⟨fun _ _ => rd_replicate_zero .., rd_replicate_zero ..⟩

/-- The first three runs of ADAPT_SYN, on the zeros of the reset, on four vectors and on eight, fail. -/
theorem adaptSyn_early {C : Cfg α} (laws : ZeroLaws C.num) {n : Nat} {s : CoreState α} (early : EarlySession C n s)
    (first : n % 4 = 0) (hn : n < 12) :
    (adaptSyn C s).A_RDY = false ∧ ShortHistory C (20 * (n / 4)) (adaptSyn C s) := by
  obtain ⟨leading, recursivePart⟩ := early.history (by omega)
  rw [← early.noPending (by omega)]
  refine adaptSyn_of_short laws (by omega) recursivePart ?_
  obtain rfl | positive := Nat.eq_zero_or_pos n
  · exact adapterHwin_syn_zeros leading fun _ hk => rd_ringRead_qsyn_zeros C.num (early.ring rfl) hk
  · have tail : 20 * (n / 4) = 20 * ((n - 1) / 4) + 20 := by omega
    exact tail ▸ adapterHwin_syn_leadingZeros leading _

/-- SCHED of the next vector: the run of ADAPT_SYN in phase 1 and the commit in phase 3 are all it does to the synthesis set. -/
theorem sched_early {C : Cfg α} (laws : ZeroLaws C.num) {n : Nat} {s : CoreState α} (early : EarlySession C n s)
    (hn : n < 14) :
    (sched C s).A_CUR = C.aInit
      ∧ (n + 1 ≤ 12 → (sched C s).A_RDY = false ∧ ShortHistory C (20 * (n / 4)) (sched C s)) := by
  have number := early.phase
  have unchanged (later : n % 4 ≠ 0) : 20 * (n / 4) = 20 * ((n - 1) / 4) := by omega
  cases phase : s.PHASE <;> simp only [phase, Phase.toNat] at number
  case p1 =>
    rw [sched_p1 C phase]
    exact ⟨by simp [early.aCur], fun _ => adaptSyn_early laws early (by omega) (by omega)⟩
  case p2 =>
    rw [sched_p2 C phase, unchanged (by omega)]
    refine ⟨by simp [early.aCur], fun _ => ?_⟩
    obtain ⟨leading, recursivePart⟩ := early.history (by omega)
    exact ⟨by simp [early.noPending (by omega)], by simpa using leading, by simpa using recursivePart⟩
  case p3 =>
    rw [sched_p3 C phase, unchanged (by omega), commitSyn_of_not_ready (early.noPending (by omega))]
    refine ⟨by simp [early.aCur], fun _ => ?_⟩
    obtain ⟨leading, recursivePart⟩ := early.history (by omega)
    exact ⟨by simp [early.noPending (by omega)], by simpa using leading, by simpa using recursivePart⟩
  case p4 =>
    rw [sched_p4 C phase, unchanged (by omega)]
    exact ⟨early.aCur, fun _ => ⟨early.noPending (by omega), early.history (by omega)⟩⟩

/-- A vector step of either command. -/
theorem vector_early {C : Cfg α} (laws : ZeroLaws C.num) {n : Nat} {s t : CoreState α} (early : EarlySession C n s)
    (hn : n < 14) (same : SameSchedule t (stepEnd (sched C s))) : EarlySession C (n + 1) t := by
  obtain ⟨aCur, short⟩ := sched_early laws early hn
  refine ⟨?_, same.aCur.trans aCur, nofun, fun h => same.aRdy.trans (short h).1, fun h => ?_⟩
  · rw [same.phase, stepEnd_PHASE, sched_PHASE, nextPhase_toNat, early.phase]
    omega
  · obtain ⟨leading, recursivePart⟩ := (short h).2
    exact ⟨same.sbSyn ▸ leading, same.rexpSyn ▸ recursivePart⟩

theorem encodeAll_early {C : Cfg α} (laws : ZeroLaws C.num) (svs : List (Vec5 α)) {n : Nat} {s : CoreState α}
    (early : EarlySession C n s) (hn : n + svs.length ≤ 14) :
    EarlySession C (n + svs.length) (encodeAll C svs s).1 := by
  induction svs generalizing n s with
  | nil => exact early
  | cons sv rest ih =>
    rw [List.length_cons, ← Nat.add_assoc, Nat.add_right_comm] at hn ⊢
    exact ih (vector_early laws early (by omega) (encodeVector_sameSchedule C sv s)) hn

theorem decodeAll_early {C : Cfg α} (laws : ZeroLaws C.num) (idxs : List (BitVec 10)) {n : Nat} {s : CoreState α}
    (early : EarlySession C n s) (hn : n + idxs.length ≤ 14) :
    EarlySession C (n + idxs.length) (decodeAll C idxs s).1 := by
  induction idxs generalizing n s with
  | nil => exact early
  | cons idx rest ih =>
    rw [List.length_cons, ← Nat.add_assoc, Nat.add_right_comm] at hn ⊢
    exact ih (vector_early laws early (by omega) (decodeVector_sameSchedule C idx s)) hn

/-- Settles O60: exact arithmetic has the laws of zero, and a session is early through its fourteenth vector. -/
theorem synthesisSetStaysInitialForFourteenVectors : Obligations.SynthesisSetStaysInitialForFourteenVectors := by
  intro K _ _ _ lg pw rnd C svs idxs pf num phase hsvs hidxs
  have laws : ZeroLaws C.num := num ▸ exactNum_zeroLaws K lg pw rnd
  exact ⟨(encodeAll_early laws svs (sessionStart_early phase .enc false) (by omega)).aCur,
    (decodeAll_early laws idxs (sessionStart_early phase .dec pf) (by omega)).aCur⟩

end Sys2Proof.Machine
end

section
/-! SUPPORT. PREDGAIN and UPDGAIN as instructions (42_gain_predictor.md R151 to R154): the prediction over the decided NUM, the sign
of the gain it answers, and what the shift register and QLG hold after a push. -/

namespace Sys2Proof.Machine

/-! ## PREDGAIN -/

/-- PREDGAIN's answer with the decided NUM's own operations (R151). -/
theorem corePredgain_eq (s : CoreState B32) :
    corePredgain cfg s
      = pow10 (b32Mul (b32OfRatio 1 20)
          (clamp binary32 (predictedDb binary32 cfg.goff s.GP_CUR s.GSTATE) b32Zero (b32OfInt 60))) :=
  rfl

/-- Settles O33: the predicted log-gain is GOFF less the ten taps, and the clamp is two comparisons. -/
theorem predgainPredictsFromTheHistory : Obligations.PredgainPredictsFromTheHistory := by
  intro s p raw db
  have clamped : clamp binary32 (predictedDb binary32 cfg.goff s.GP_CUR s.GSTATE) b32Zero (b32OfInt 60) = db := rfl
  rw [exec_predgain, corePredgain_eq, clamped]
  rfl

theorem b32Lt_of_lt_of_le {a b c : B32} (hab : b32Lt a b = true) (hbc : b32Le b c = true) : b32Lt a c = true := by
  obtain ⟨ha, -, hab⟩ := b32Lt_iff.mp hab
  obtain ⟨-, hc, hbc⟩ := b32Le_iff.mp hbc
  exact b32Lt_iff.mpr ⟨ha, hc, hab.trans_le hbc⟩

/-- Settles O34: the predicted gain is at least 1. -/
theorem predictedGainIsPositive : Obligations.PredictedGainIsPositive := by
  intro s number
  obtain ⟨atLeastOne, -⟩ := corePredgain_mem s.toCoreState number
  have zeroLtOne : b32Lt b32Zero (b32OfInt 1) = true := by decide +kernel
  exact ⟨_, exec_predgain s, b32Lt_of_lt_of_le zeroLtOne atLeastOne⟩

/-! ## UPDGAIN -/

/-- A push onto a full shift register drops its oldest entry (00_scope.md R18). -/
theorem push_of_length_succ {α : Type} {m : List α} {n : Nat} (h : m.length = n + 1) (v : α) : push m v = v :: m.take n := by
  rw [push, h, List.take_succ_cons]

/-- Settles O36: the push drops the oldest of ten log-gains, and of QLG one entry is set. -/
theorem updgainPushesTheLogGain : Obligations.UpdgainPushesTheLogGain := by
  refine ⟨by decide, ?_⟩
  intro s gstate qlg et raw ms lg
  have logGain_eq : logGain cfg.num cfg.goff cfg.msFloor s.loc.et = lg := rfl
  have inside : s.VX.val < s.QLG.length := s.VX.isLt.trans_eq qlg.symm
  refine ⟨s.QLG.set s.VX.val lg, ?_, by rw [List.length_set, qlg], ?_, fun i other => ?_⟩
  · rw [exec_updgain, coreUpdgain, logGain_eq, push_of_length_succ gstate]
    rfl
  · rw [rd_set, if_pos ⟨rfl, inside⟩]
  · rw [rd_set, if_neg fun same => other same.1]

end Sys2Proof.Machine
end

section
/-! SUPPORT. The filters on memories (43_filters.md R160 to R166): five samples of a filter as a run from sample to sample,
its memories as shift registers, the difference equations its five answers meet, and PWFILT, ZRESP and MEMUPD as
instructions. -/

namespace Sys2Proof.Machine

variable {α σ β γ : Type}

/-! ## Shift registers -/

theorem foldl_push (m xs : List α) : xs.foldl push m = (xs.reverse ++ m).take m.length := by
  induction xs generalizing m with
  | nil => simp
  | cons x xs ih => simp [ih, push, List.take_append, List.take_take]

/-- Five samples shifted into a longer register stand before all but its five oldest entries. -/
theorem foldl_push_toList {m : List α} {n : Nat} (h : m.length = n + 5) (v : Vec5 α) :
    v.toList.foldl push m = v.toList.reverse ++ m.take n := by
  simp [foldl_push, h, List.take_append]

theorem rd_take (N : NumOps α) (l : List α) {n i : Nat} (h : i < n) : rd N (l.take n) i = rd N l i := by
  simp [rd, List.getD_eq_getElem?_getD, h]

/-- What a register has dropped is past the reach of taps that fit in it. -/
theorem taps_foldl_push (N : NumOps α) (c xs : List α) {m : List α} {n : Nat} (h : n ≤ m.length) :
    taps N c (xs.foldl push m) n = taps N c (xs.reverse ++ m) n :=
  sumFrom_congr N fun i _ _ => by rw [foldl_push, rd_take N _ (by omega)]

/-! ## Five samples as a run -/

/-- The state after the first `k` samples. -/
def runFor (f : σ → α → σ × β) (s : σ) (v : Vec5 α) : Nat → σ
  | 0 => s
  | k + 1 => (f (runFor f s v k) (v.get k)).1

theorem scan5_fst_eq_runFor (f : σ → α → σ × β) (s : σ) (v : Vec5 α) : (scan5 f s v).1 = runFor f s v 5 := rfl

theorem get_scan5 (f : σ → α → σ × β) (s : σ) (v : Vec5 α) {k : Nat} (hk : k < 5) :
    (scan5 f s v).2.get k = (f (runFor f s v k) (v.get k)).2 := by
  match k, hk with
  | 0, _ | 1, _ | 2, _ | 3, _ | 4, _ => rfl

theorem take_succ_toList (v : Vec5 α) {k : Nat} (hk : k < 5) : v.toList.take (k + 1) = v.toList.take k ++ [v.get k] := by
  match k, hk with
  | 0, _ | 1, _ | 2, _ | 3, _ | 4, _ => rfl

/-- `reg` is a shift register of the filter that takes in `u[k]` at sample `k`. -/
def ShiftsIn (f : σ → α → σ × β) (s : σ) (v : Vec5 α) (reg : σ → List γ) (u : Vec5 γ) : Prop :=
  ∀ k < 5, reg (runFor f s v (k + 1)) = push (reg (runFor f s v k)) (u.get k)

section
variable {f : σ → α → σ × β} {s : σ} {v : Vec5 α} {reg : σ → List γ} {u : Vec5 γ} (h : ShiftsIn f s v reg u)
include h

theorem ShiftsIn.runFor_eq {k : Nat} (hk : k ≤ 5) : reg (runFor f s v k) = (u.toList.take k).foldl push (reg s) := by
  induction k with
  | zero => rfl
  | succ k ih => rw [h k hk, ih (by omega), take_succ_toList u hk, List.foldl_concat]

/-- At sample `k` the taps see the samples taken in so far, newest first, and behind them the memory of before. -/
theorem ShiftsIn.taps_eq (N : NumOps γ) (c : List γ) {n k : Nat} (fits : n ≤ (reg s).length) (hk : k < 5) :
    taps N c (reg (runFor f s v k)) n = taps N c ((u.toList.take k).reverse ++ reg s) n := by
  rw [h.runFor_eq hk.le, taps_foldl_push N c _ fits]

theorem ShiftsIn.scan5_eq {n : Nat} (length : (reg s).length = n + 5) :
    reg (scan5 f s v).1 = u.toList.reverse ++ (reg s).take n := by
  rw [scan5_fst_eq_runFor, h.runFor_eq le_rfl, List.take_of_length_le (by simp), foldl_push_toList length]

end

/-! ## The difference equations -/

/-- `x` answers the drive `e` through the synthesis filter on the memory `syn` (43_filters.md R164, R166). -/
def Synthesizes (N : NumOps α) (A syn : List α) (e x : Vec5 α) : Prop :=
  ∀ k < 5, x.get k = N.sub (e.get k) (taps N A ((x.toList.take k).reverse ++ syn) 50)

/-- `y` answers `x` through the weighting filter on the memory `m` (43_filters.md R160, R161). -/
def Weights (N : NumOps α) (wz wp : List α) (m : WMem α) (x y : Vec5 α) : Prop :=
  ∀ k < 5, y.get k = N.sub (N.add (x.get k) (taps N wz ((x.toList.take k).reverse ++ m.z) 10))
    (taps N wp ((y.toList.take k).reverse ++ m.p) 10)

/-- The memory of a weighting filter after five samples. -/
def WMem.after (m : WMem α) (x y : Vec5 α) : WMem α :=
  { z := x.toList.reverse ++ m.z.take 5, p := y.toList.reverse ++ m.p.take 5 }

/-! ### PWFILT -/

section
variable {N : NumOps α} {wz wp : List α} {m : WMem α} {inp : Vec5 α}

theorem get_pwfilt {k : Nat} (hk : k < 5) :
    (pwfilt N wz wp m inp).2.get k = (weightStep N wz wp (runFor (weightStep N wz wp) m inp k) (inp.get k)).2 :=
  get_scan5 _ _ _ hk

theorem pwfilt_shifts_z : ShiftsIn (weightStep N wz wp) m inp WMem.z inp := fun _ _ => rfl

theorem pwfilt_shifts_p : ShiftsIn (weightStep N wz wp) m inp WMem.p (pwfilt N wz wp m inp).2 := fun k hk => by
  rw [get_pwfilt hk]
  rfl

theorem pwfilt_weights (hz : m.z.length = 10) (hp : m.p.length = 10) :
    Weights N wz wp m inp (pwfilt N wz wp m inp).2 := fun k hk => by
  rw [← pwfilt_shifts_z.taps_eq N wz hz.ge hk, ← pwfilt_shifts_p.taps_eq N wp hp.ge hk]
  exact get_pwfilt hk

theorem pwfilt_memory (hz : m.z.length = 10) (hp : m.p.length = 10) :
    (pwfilt N wz wp m inp).1 = m.after inp (pwfilt N wz wp m inp).2 := by
  rw [WMem.after, ← pwfilt_shifts_z.scan5_eq hz, ← pwfilt_shifts_p.scan5_eq hp]
  rfl

end

/-! ### The cascade -/

/-- The five outputs of the synthesis filter, unclamped. -/
def synthesisOutput (N : NumOps α) (A wz wp : List α) (m : CMem α) (e : Vec5 α) : Vec5 α :=
  map5 Prod.fst (scan5 (cascadeStep N A wz wp) m e).2

/-- The five outputs of the weighting filter behind it. -/
def weightingOutput (N : NumOps α) (A wz wp : List α) (m : CMem α) (e : Vec5 α) : Vec5 α :=
  map5 Prod.snd (scan5 (cascadeStep N A wz wp) m e).2

section
variable {N : NumOps α} {A wz wp : List α} {m : CMem α} {e : Vec5 α}

theorem get_synthesisOutput {k : Nat} (hk : k < 5) : (synthesisOutput N A wz wp m e).get k
    = N.sub (e.get k) (taps N A (runFor (cascadeStep N A wz wp) m e k).syn 50) := by
  rw [synthesisOutput, get_map5, get_scan5 _ _ _ hk]
  rfl

theorem get_weightingOutput {k : Nat} (hk : k < 5) : (weightingOutput N A wz wp m e).get k
    = (weightStep N wz wp (runFor (cascadeStep N A wz wp) m e k).w ((synthesisOutput N A wz wp m e).get k)).2 := by
  rw [get_synthesisOutput hk, weightingOutput, get_map5, get_scan5 _ _ _ hk]
  rfl

theorem cascade_shifts_syn : ShiftsIn (cascadeStep N A wz wp) m e CMem.syn (synthesisOutput N A wz wp m e) := fun k hk => by
  rw [get_synthesisOutput hk]
  rfl

theorem cascade_shifts_z : ShiftsIn (cascadeStep N A wz wp) m e (·.w.z) (synthesisOutput N A wz wp m e) := fun k hk => by
  rw [get_synthesisOutput hk]
  rfl

theorem cascade_shifts_p : ShiftsIn (cascadeStep N A wz wp) m e (·.w.p) (weightingOutput N A wz wp m e) := fun k hk => by
  rw [get_weightingOutput hk, get_synthesisOutput hk]
  rfl

theorem cascade_synthesizes (N : NumOps α) (A wz wp : List α) (m : CMem α) (e : Vec5 α) (hs : m.syn.length = 50) :
    Synthesizes N A m.syn e (synthesisOutput N A wz wp m e) := fun k hk => by
  rw [← cascade_shifts_syn.taps_eq N A hs.ge hk]
  exact get_synthesisOutput hk

theorem cascade_weights (N : NumOps α) (A wz wp : List α) (m : CMem α) (e : Vec5 α) (hz : m.w.z.length = 10)
    (hp : m.w.p.length = 10) :
    Weights N wz wp m.w (synthesisOutput N A wz wp m e) (weightingOutput N A wz wp m e) := fun k hk => by
  rw [← cascade_shifts_z.taps_eq N wz hz.ge hk, ← cascade_shifts_p.taps_eq N wp hp.ge hk]
  exact get_weightingOutput hk

theorem cascade_syn (hs : m.syn.length = 50) :
    (scan5 (cascadeStep N A wz wp) m e).1.syn = (synthesisOutput N A wz wp m e).toList.reverse ++ m.syn.take 45 :=
  cascade_shifts_syn.scan5_eq hs

theorem cascade_w (hz : m.w.z.length = 10) (hp : m.w.p.length = 10) :
    (scan5 (cascadeStep N A wz wp) m e).1.w = m.w.after (synthesisOutput N A wz wp m e) (weightingOutput N A wz wp m e) := by
  rw [WMem.after, ← cascade_shifts_z.scan5_eq hz, ← cascade_shifts_p.scan5_eq hp]

end

/-! ### MEMUPD's clamp -/

section
variable {N : NumOps α} {A wz wp : List α} {lo hi : α} {m : CMem α} {et : Vec5 α}

/-- The synthesized vector as MEMUPD stores and answers it. -/
def clampVector (N : NumOps α) (lo hi : α) (x : Vec5 α) : Vec5 α := map5 (fun y => clamp N y lo hi) x

theorem memupd_syn (hs : m.syn.length = 50) : (memupd N A wz wp lo hi m et).1.syn
    = (clampVector N lo hi (synthesisOutput N A wz wp m et)).toList.reverse ++ m.syn.take 45 := by
  rw [memupd, cascade_syn hs]
  rfl

theorem memupd_sq (hs : m.syn.length = 50) :
    (memupd N A wz wp lo hi m et).2 = clampVector N lo hi (synthesisOutput N A wz wp m et) := by
  rw [memupd, cascade_syn hs]
  rfl

theorem memupd_w (hz : m.w.z.length = 10) (hp : m.w.p.length = 10) : (memupd N A wz wp lo hi m et).1.w
    = m.w.after (synthesisOutput N A wz wp m et) (weightingOutput N A wz wp m et) := cascade_w hz hp

end

/-! ## PWFILT, ZRESP and MEMUPD as instructions -/

theorem exec_pwfilt (s : State) :
    exec .pwfilt s = .next ((s.setCore (corePwfilt cfg s.loc.inp s.toCoreState).1).setLoc
      { s.loc with v := (corePwfilt cfg s.loc.inp s.toCoreState).2 }) := rfl

/-- Settles O37: the two memories are shift registers of the inputs and of the outputs. -/
theorem pwfiltFollowsTheDifferenceEquation : Obligations.PwfiltFollowsTheDifferenceEquation := by
  refine ⟨by decide, fun s hz hp => ⟨(corePwfilt cfg s.loc.inp s.toCoreState).2, ?_, pwfilt_weights hz hp⟩⟩
  rw [exec_pwfilt, corePwfilt, pwfilt_memory hz hp]
  rfl

theorem exec_zresp (s : State) :
    exec .zresp s = .next (s.setLoc { s.loc with
      zs := (coreZresp cfg s.toCoreState).1, zw := (coreZresp cfg s.toCoreState).2 }) := rfl

theorem get_zero5 (N : NumOps α) (k : Nat) : (zero5 N).get k = N.zero := by
  match k with
  | 0 | 1 | 2 | 3 | _ + 4 => rfl

/-- Settles O38: ZRESP is the cascade driven by zeros, and only its answers are kept. -/
theorem zrespIsTheZeroInputResponse : Obligations.ZrespIsTheZeroInputResponse := by
  refine ⟨by decide, fun s hs hz hp => ⟨_, _, exec_zresp s, fun k hk => ?_, ?_⟩⟩
  · have zeroDriven :=
      cascade_synthesizes binary32 s.A_CUR s.WZ_CUR s.WP_CUR (cascadeMem s.toCoreState) (zero5 binary32) hs k hk
    rwa [get_zero5] at zeroDriven
  · exact cascade_weights binary32 s.A_CUR s.WZ_CUR s.WP_CUR (cascadeMem s.toCoreState) (zero5 binary32) hz hp

/-- Settles O39: the cascade's memories hold the unclamped outputs, and the clamp is one map over five of them. -/
theorem memupdFiltersThenClampsOnce : Obligations.MemupdFiltersThenClampsOnce := by
  refine ⟨by decide, fun s hs hz hp => ⟨_, _, ?_,
    cascade_synthesizes binary32 s.A_CUR s.WZ_CUR s.WP_CUR (cascadeMem s.toCoreState) s.loc.et hs,
    cascade_weights binary32 s.A_CUR s.WZ_CUR s.WP_CUR (cascadeMem s.toCoreState) s.loc.et hz hp⟩⟩
  rw [exec_memupd, coreMemupd, memupd_syn hs, memupd_sq hs, memupd_w hz hp]
  rfl

end Sys2Proof.Machine
end

section
/-! SUPPORT. What DEC_VEC delivers without the postfilter (43_filters.md R167 d, 45_controller.md R214): the clamped vector
MEMUPD answers, on DOUT and in the two rings. -/

namespace Sys2Proof.Machine

variable {α : Type}

@[simp] theorem ringWrite_qsyn_QSYN (v : Vec5 α) (s : CoreState α) :
    (ringWrite s .qsyn v).QSYN = writeSlot s.QSYN s.VX v := rfl

@[simp] theorem ringWrite_qexc_QSYN (v : Vec5 α) (s : CoreState α) : (ringWrite s .qexc v).QSYN = s.QSYN := rfl

@[simp] theorem ringWrite_qin_QSYN (v : Vec5 α) (s : CoreState α) : (ringWrite s .qin v).QSYN = s.QSYN := rfl

theorem decodeUnfiltered_rings (C : Cfg α) (idx : BitVec 10) (s : CoreState α) :
    let u := decodeUnfiltered C idx s
    u.1.QSYN = writeSlot s.QSYN s.VX u.2 ∧ u.1.QIN = s.QIN ∧ u.1.VX = s.VX := by
  simp [decodeUnfiltered]

theorem decodeUnfiltered_frame (C : Cfg α) (idx : BitVec 10) (s : CoreState α) :
    let u := decodeUnfiltered C idx s
    u.1.PF_STATE = s.PF_STATE ∧ u.1.PWF_ZMEM = s.PWF_ZMEM ∧ u.1.PWF_PMEM = s.PWF_PMEM := by
  simp [decodeUnfiltered]

/-- Without the postfilter the output vector stands in slot VX of both rings, and the memories of the postfilter and of the
encoder's input path are as before. -/
theorem decodeVector_of_off_leaves (C : Cfg α) (idx : BitVec 10) {s : CoreState α} (off : s.PF_EN = false) :
    let r := decodeVector C idx s
    r.core.QSYN = writeSlot s.QSYN s.VX r.out ∧ r.core.QIN = writeSlot s.QIN s.VX r.out
      ∧ r.core.PF_STATE = s.PF_STATE ∧ r.core.PWF_ZMEM = s.PWF_ZMEM ∧ r.core.PWF_PMEM = s.PWF_PMEM := by
  obtain ⟨core, out⟩ := decodeVector_of_off C idx off
  obtain ⟨qsyn, qin, vx⟩ := decodeUnfiltered_rings C idx s
  obtain ⟨pfState, zmem, pmem⟩ := decodeUnfiltered_frame C idx s
  simp [core, out, qsyn, qin, vx, pfState, zmem, pmem]

/-- A sample MEMUPD answers is a clamped one. -/
theorem coreMemupd_inClampRange (et : Vec5 B32) {s : CoreState B32} (hs : s.SYN_MEM.length = 50) (k : Nat) :
    InClampRange cfg ((coreMemupd cfg et s).2.get k) := by
  rw [coreMemupd, memupd_sq hs, clampVector, get_map5]
  exact inClampRange_clamp _

theorem synthesizeVector_inClampRange (et : Vec5 B32) {s : CoreState B32} (hs : s.SYN_MEM.length = 50) (k : Nat) :
    InClampRange cfg ((synthesizeVector cfg et s).2.get k) := by
  simp only [synthesizeVector]
  exact coreMemupd_inClampRange et (by simpa using hs) k

theorem decodeVector_out_inClampRange (idx : BitVec 10) {s : CoreState B32} (off : s.PF_EN = false)
    (hs : s.SYN_MEM.length = 50) (k : Nat) : InClampRange cfg ((decodeVector cfg idx s).out.get k) := by
  rw [(decodeVector_of_off cfg idx off).2, decodeUnfiltered_eq]
  exact synthesizeVector_inClampRange _ (by simpa using hs) k

/-- Settles O11: the output is the vector MEMUPD clamped, and each of the two rings takes it into slot VX. -/
theorem unpostfilteredOutputIsClampedAndStored : Obligations.UnpostfilteredOutputIsClampedAndStored := by
  intro s b0 b1 rest shape gain running dec off din word hqin hqsyn hsyn
  have ready : vectorReady .dec s.toCoreState = true := (vectorReady_iff ..).mpr ⟨running, dec⟩
  have taken : takeIndex s.DIN_IDX = .legal (packIndex shape gain) rest := din ▸ takeIndex_of_decodeIndex rest word
  obtain ⟨vx, phase⟩ := decodeVector_counters cfg (packIndex shape gain) s.toCoreState
  obtain ⟨ctrl, mode, pfEn, err⟩ := decodeVector_control cfg (packIndex shape gain) s.toCoreState
  obtain ⟨qsyn, qin, pfState, zmem, pmem⟩ := decodeVector_of_off_leaves cfg (packIndex shape gain) off
  refine ⟨_, _, execDecVec_runs ready taken, rfl, rfl, fun k _ => decodeVector_out_inClampRange _ off hsyn k,
    fun k hk => ⟨?_, ?_⟩, fun i hi => ⟨?_, ?_⟩, congrArg Fin.val vx,
    (congrArg Phase.toNat phase).trans (nextPhase_toNat _), ctrl.trans running, mode.trans dec, pfEn.trans off, err,
    pfState, zmem, pmem, rfl, rfl, rfl, rfl, rfl⟩
  · rw [qsyn, rd_writeSlot_inside _ _ _ _ hqsyn hk]
  · rw [qin, rd_writeSlot_inside _ _ _ _ hqin hk]
  · rw [qsyn, rd_writeSlot_outside _ _ _ _ hi]
  · rw [qin, rd_writeSlot_outside _ _ _ _ hi]

end Sys2Proof.Machine
end

section
/-! SUPPORT. The impulse response (43_filters.md R170) and the energies SHAPEN makes of it (R172). -/

namespace Sys2Proof.Machine

variable {α : Type}

/-! ## The two recursions of IRESP -/

/-- The responses after `n` samples. -/
def impulseTo (N : NumOps α) (A wz wp : List α) (n : Nat) : ImpulseState α :=
  (List.range n).foldl (irespStep N A wz wp) { s := [], h := [] }

theorem rd_concat_of_lt (N : NumOps α) {l : List α} {i : Nat} (h : i < l.length) (x : α) :
    rd N (l ++ [x]) i = rd N l i := by
  simp [rd, h, List.getElem?_append_left]

theorem rd_concat_last (N : NumOps α) {l : List α} {n : Nat} (h : l.length = n) (x : α) : rd N (l ++ [x]) n = x := by
  simp [rd, ← h]

/-- Sample `k` of the two recursions of R170. -/
def ImpulseSample (N : NumOps α) (A wz wp : List α) (g h : Nat → α) (k : Nat) : Prop :=
  g k = N.sub (if k = 0 then N.one else N.zero) (sumFrom N 1 k (fun i => N.mul (rd N A i) (g (k - i))))
    ∧ h k = N.sub (N.add (g k) (sumFrom N 1 k (fun i => N.mul (rd N wz i) (g (k - i)))))
        (sumFrom N 1 k (fun i => N.mul (rd N wp i) (h (k - i))))

/-- A sample of the recursions reads no later one. -/
theorem ImpulseSample.congr {N : NumOps α} {A wz wp : List α} {g h g' h' : Nat → α} {k : Nat}
    (sample : ImpulseSample N A wz wp g h k) (hg : ∀ j ≤ k, g' j = g j) (hh : ∀ j ≤ k, h' j = h j) :
    ImpulseSample N A wz wp g' h' k := by
  have sums {u u' : Nat → α} (c : List α) (same : ∀ j ≤ k, u' j = u j) :
      sumFrom N 1 k (fun i => N.mul (rd N c i) (u' (k - i))) = sumFrom N 1 k (fun i => N.mul (rd N c i) (u (k - i))) :=
    sumFrom_congr N fun i _ _ => by rw [same _ (k.sub_le i)]
  rw [ImpulseSample, hg k le_rfl, hh k le_rfl, sums A hg, sums wz hg, sums wp hh]
  exact sample

section
variable (N : NumOps α) (A wz wp : List α)

theorem impulse_eq_impulseTo : impulse N A wz wp = impulseTo N A wz wp 5 := rfl

theorem impulseTo_succ (n : Nat) :
    impulseTo N A wz wp (n + 1) = irespStep N A wz wp (impulseTo N A wz wp n) n := by
  rw [impulseTo, List.range_succ, List.foldl_concat, impulseTo]

theorem impulseTo_length (n : Nat) : (impulseTo N A wz wp n).s.length = n ∧ (impulseTo N A wz wp n).h.length = n := by
  induction n with
  | zero => exact ⟨rfl, rfl⟩
  | succ n ih =>
    obtain ⟨s, h⟩ := ih
    simp [impulseTo_succ, irespStep, s, h]

/-- A sample of a response stays as it is while later ones are put behind it. -/
theorem rd_impulseTo {i k n : Nat} (hi : i < k) (hkn : k ≤ n) :
    rd N (impulseTo N A wz wp n).s i = rd N (impulseTo N A wz wp k).s i
      ∧ rd N (impulseTo N A wz wp n).h i = rd N (impulseTo N A wz wp k).h i := by
  induction n, hkn using Nat.le_induction with
  | base => exact ⟨rfl, rfl⟩
  | succ n hkn ih =>
    obtain ⟨s, h⟩ := impulseTo_length N A wz wp n
    rw [impulseTo_succ, irespStep, rd_concat_of_lt N (by omega), rd_concat_of_lt N (by omega)]
    exact ih

/-- The newest sample of a run follows the recursions. -/
theorem impulseTo_newest (k : Nat) :
    let r := impulseTo N A wz wp (k + 1)
    ImpulseSample N A wz wp (rd N r.s) (rd N r.h) k := by
  obtain ⟨s, h⟩ := impulseTo_length N A wz wp k
  have earlier {l : List α} (hl : l.length = k) (x : α) (c : List α) :
      sumFrom N 1 k (fun i => N.mul (rd N c i) (rd N (l ++ [x]) (k - i)))
        = sumFrom N 1 k (fun i => N.mul (rd N c i) (rd N l (k - i))) :=
    sumFrom_congr N fun i _ _ => by rw [rd_concat_of_lt N (by omega)]
  rw [impulseTo_succ, irespStep]
  dsimp only
  rw [ImpulseSample, earlier s, earlier s, earlier h, rd_concat_last N s, rd_concat_last N h]
  exact ⟨rfl, rfl⟩

/-- The synthesis filter's response and `H` follow the recursions of R170. -/
theorem impulse_sample {k : Nat} (hk : k < 5) :
    ImpulseSample N A wz wp (rd N (impulse N A wz wp).s) (iresp N A wz wp).get k := by
  rw [impulse_eq_impulseTo]
  have early {j : Nat} (hj : j ≤ k) := rd_impulseTo N A wz wp (Nat.lt_succ_of_le hj) hk
  exact (impulseTo_newest N A wz wp k).congr (fun j hj => (early hj).1)
    fun j hj => (get_ofFn _ (by omega)).trans (early hj).2

end

/-! ## IRESP and SHAPEN as instructions -/

/-- Settles O41: the answers of the run are the two recursions' first five samples. -/
theorem irespComputesTheImpulseResponse : Obligations.IrespComputesTheImpulseResponse := by
  refine ⟨by decide, fun s => ?_⟩
  have sample {k : Nat} (hk : k < 5) :=
    (impulse_sample binary32 s.A_CUR s.WZ_CUR s.WP_CUR hk).congr
      (g' := (Vec5.ofFn (rd binary32 (impulse binary32 s.A_CUR s.WZ_CUR s.WP_CUR).s)).get)
      (fun j hj => get_ofFn _ (by omega)) (fun _ _ => rfl)
  exact ⟨_, iresp binary32 s.A_CUR s.WZ_CUR s.WP_CUR, exec_iresp s, fun k hk => (sample hk).1, fun k hk => (sample hk).2⟩

/-- The energy of a codeword over its filtered samples (R172). -/
theorem shapeEnergy_eq (N : NumOps α) (H : Vec5 α) (y : Nat → α) :
    shapeEnergy N H y = sumFrom N 0 5 (fun k => N.mul (filterShape N H y k) (filterShape N H y k)) :=
  sumFrom_congr N fun k _ hk => by rw [get_ofFn _ (by omega)]

/-- Settles O42: entry `j` of the table is the energy of codeword `j` filtered from zero state. -/
theorem shapenComputesTheShapeEnergies : Obligations.ShapenComputesTheShapeEnergies := by
  refine ⟨by decide, fun s => ⟨shapen binary32 s.H cfg.cbShape, exec_shapen s, shapen_length .., fun j hj => ?_⟩⟩
  rw [rd_shapen _ _ _ hj, shapeEnergy_eq]
  rfl

end Sys2Proof.Machine
end

section
/-! SUPPORT. Superposition in exact arithmetic (43_filters.md R168): over five samples a filter's difference equation is an
identity of power series modulo `X ^ 5`, and the filter's series is invertible. -/

namespace Sys2Proof.Machine

open PowerSeries

variable {K : Type} [Field K]

/-! ## Filters as power series -/

/-- The series of taps `c` with 1 in front, whatever `c 0` is: the taps of a filter start at 1. -/
def tapSeries (c : Nat → K) : K⟦X⟧ := mk fun i => if i = 0 then 1 else c i

/-- What the first `k` taps `c` see at sample `k`: the samples `k − 1` down to 0 of `u`. -/
def earlierTaps (c u : Nat → K) (k : Nat) : K := ∑ i ∈ Finset.range k, c (i + 1) * u (k - (i + 1))

/-- What the taps `c` up to `n` that reach back past sample 0 see of the memory `m` at sample `k`. -/
def memoryTaps (c m : Nat → K) (k n : Nat) : K := ∑ i ∈ Finset.range (n - k), c (k + i + 1) * m i

theorem coeff_tapSeries_mul (c u : Nat → K) (k : Nat) :
    coeff k (tapSeries c * mk u) = u k + earlierTaps c u k := by
  rw [coeff_mul, Finset.Nat.sum_antidiagonal_eq_sum_range_succ fun i j => coeff i (tapSeries c) * coeff j (mk u),
    Finset.sum_range_succ', add_comm]
  simp [tapSeries, earlierTaps]

theorem coeff_mk_mul (g e : Nat → K) (k : Nat) :
    coeff k (mk g * mk e) = ∑ i ∈ Finset.range (k + 1), g (k - i) * e i := by
  rw [mul_comm, coeff_mul, Finset.Nat.sum_antidiagonal_eq_sum_range_succ fun i j => coeff i (mk e) * coeff j (mk g)]
  simp [mul_comm]

/-- A series that a filter's series takes to zero, up to some sample, is zero up to there. -/
theorem dvd_of_dvd_tapSeries_mul {c : Nat → K} {n : Nat} {q : K⟦X⟧} (h : X ^ n ∣ tapSeries c * q) : X ^ n ∣ q := by
  have unit : IsUnit (tapSeries c) := isUnit_iff_constantCoeff.mpr (by simp [tapSeries])
  exact unit.dvd_mul_left.mp h

/-- Two filters in a row on zero memories answer a drive by its convolution with what they answer a unit impulse: `δs`, `δw`
answer the drive `e`, and `g`, `h` the impulse. -/
theorem cascade_convolves {A wz wp : Nat → K} {e g h δs δw : K⟦X⟧} {n : Nat}
    (driven_s : X ^ n ∣ tapSeries A * δs - e) (driven_w : X ^ n ∣ tapSeries wp * δw - tapSeries wz * δs)
    (impulse_s : X ^ n ∣ tapSeries A * g - 1) (impulse_h : X ^ n ∣ tapSeries wp * h - tapSeries wz * g) :
    X ^ n ∣ δs - g * e ∧ X ^ n ∣ δw - h * e := by
  have synthesis : X ^ n ∣ δs - g * e := by
    refine dvd_of_dvd_tapSeries_mul (c := A) ?_
    have combined := driven_s.sub (impulse_s.mul_right e)
    rwa [show tapSeries A * (δs - g * e) = tapSeries A * δs - e - (tapSeries A * g - 1) * e by ring]
  refine ⟨synthesis, dvd_of_dvd_tapSeries_mul (c := wp) ?_⟩
  have combined := (driven_w.sub (impulse_h.mul_right e)).add (synthesis.mul_left (tapSeries wz))
  rwa [show tapSeries wp * (δw - h * e) = tapSeries wp * δw - tapSeries wz * δs
    - (tapSeries wp * h - tapSeries wz * g) * e + tapSeries wz * (δs - g * e) by ring]

/-! ## The filters' difference equations as identities of series -/

theorem rd_reverse_take_append {α : Type} (N : NumOps α) (v : Vec5 α) (m : List α) {k : Nat} (hk : k ≤ 5) (i : Nat) :
    rd N ((v.toList.take k).reverse ++ m) i = if i < k then v.get (k - (i + 1)) else rd N m (i - k) := by
  induction k generalizing i with
  | zero => rfl
  | succ k ih =>
    rw [take_succ_toList v hk, List.reverse_concat, List.cons_append]
    cases i with
    | zero => simp
    | succ i => simp [ih (by omega)]

section
variable [LinearOrder K] {lg pw : K → K} {rnd : K → Int}

theorem exactNum_add (a b : K) : (exactNum K lg pw rnd).add a b = a + b := rfl

theorem exactNum_sub (a b : K) : (exactNum K lg pw rnd).sub a b = a - b := rfl

theorem exactNum_zero : (exactNum K lg pw rnd).zero = 0 := rfl

theorem exactNum_one : (exactNum K lg pw rnd).one = 1 := rfl

theorem sumFrom_one_exactNum (cnt : Nat) (t : Nat → K) :
    sumFrom (exactNum K lg pw rnd) 1 cnt t = ∑ i ∈ Finset.range cnt, t (i + 1) := by
  induction cnt with
  | zero => rfl
  | succ n ih =>
    rw [sumFrom_succ, Finset.sum_range_succ, ← ih, Nat.add_comm n 1]
    rfl

/-- A sum of the rules over earlier samples. -/
theorem sumFrom_earlierTaps (c : List K) (u : Nat → K) (k : Nat) :
    let N := exactNum K lg pw rnd
    sumFrom N 1 k (fun i => N.mul (rd N c i) (u (k - i))) = earlierTaps (rd N c) u k := sumFrom_one_exactNum ..

/-- At sample `k` the first `k` taps see the samples of the vector, the others the memory of before. -/
theorem taps_exactNum (c m : List K) (v : Vec5 K) {k n : Nat} (hk : k ≤ 5) (hn : k ≤ n) :
    let N := exactNum K lg pw rnd
    taps N c ((v.toList.take k).reverse ++ m) n = earlierTaps (rd N c) v.get k + memoryTaps (rd N c) (rd N m) k n := by
  intro N
  obtain ⟨r, rfl⟩ := Nat.exists_eq_add_of_le hn
  rw [taps, sumFrom_one_exactNum, Finset.sum_range_add, memoryTaps, Nat.add_sub_cancel_left]
  refine congrArg₂ (· + ·) (Finset.sum_congr rfl fun i hi => ?_) (Finset.sum_congr rfl fun i _ => ?_)
  · rw [Nat.add_sub_cancel, rd_reverse_take_append N v m hk, if_pos (Finset.mem_range.mp hi)]
    rfl
  · rw [Nat.add_sub_cancel, rd_reverse_take_append N v m hk, if_neg (by omega), Nat.add_sub_cancel_left]
    rfl

section
variable {A wz wp syn : List K} {m : WMem K} {e x x' y y' : Vec5 K}

/-- On one memory, what a drive adds to the synthesis filter's output is the drive filtered. -/
theorem synthesizes_sub_dvd (driven : Synthesizes (exactNum K lg pw rnd) A syn e x)
    (free : Synthesizes (exactNum K lg pw rnd) A syn (zero5 (exactNum K lg pw rnd)) x') :
    X ^ 5 ∣ tapSeries (rd (exactNum K lg pw rnd) A) * (mk x.get - mk x'.get) - mk e.get := by
  refine X_pow_dvd_iff.mpr fun k hk => ?_
  have drivenEq := driven k hk
  have freeEq := free k hk
  rw [taps_exactNum _ _ _ hk.le (by omega), exactNum_sub] at drivenEq freeEq
  rw [get_zero5, exactNum_zero] at freeEq
  rw [mul_sub, map_sub, map_sub, coeff_tapSeries_mul, coeff_tapSeries_mul, coeff_mk]
  linear_combination drivenEq - freeEq

/-- On one memory, the difference of two outputs of the weighting filter is the difference of its inputs filtered. -/
theorem weights_sub_dvd (driven : Weights (exactNum K lg pw rnd) wz wp m x y)
    (free : Weights (exactNum K lg pw rnd) wz wp m x' y') :
    X ^ 5 ∣ tapSeries (rd (exactNum K lg pw rnd) wp) * (mk y.get - mk y'.get)
      - tapSeries (rd (exactNum K lg pw rnd) wz) * (mk x.get - mk x'.get) := by
  refine X_pow_dvd_iff.mpr fun k hk => ?_
  have drivenEq := driven k hk
  have freeEq := free k hk
  rw [taps_exactNum _ _ _ hk.le (by omega), taps_exactNum _ _ _ hk.le (by omega), exactNum_sub, exactNum_add]
    at drivenEq freeEq
  simp only [mul_sub, map_sub, coeff_tapSeries_mul]
  linear_combination drivenEq - freeEq

end

/-- The recursions of R170 as two identities: the responses to a unit impulse, on zero memories. -/
theorem impulse_dvd (A wz wp : List K) :
    let N := exactNum K lg pw rnd
    let g : K⟦X⟧ := mk (rd N (impulse N A wz wp).s)
    let h : K⟦X⟧ := mk (iresp N A wz wp).get
    X ^ 5 ∣ tapSeries (rd N A) * g - 1 ∧ X ^ 5 ∣ tapSeries (rd N wp) * h - tapSeries (rd N wz) * g := by
  intro N g h
  refine ⟨X_pow_dvd_iff.mpr fun k hk => ?_, X_pow_dvd_iff.mpr fun k hk => ?_⟩
  · have sample := (impulse_sample N A wz wp hk).1
    rw [sumFrom_earlierTaps, exactNum_sub, exactNum_one, exactNum_zero] at sample
    rw [map_sub, coeff_tapSeries_mul, coeff_one]
    linear_combination sample
  · have sample := (impulse_sample N A wz wp hk).2
    rw [sumFrom_earlierTaps, sumFrom_earlierTaps, exactNum_sub, exactNum_add] at sample
    rw [map_sub, coeff_tapSeries_mul, coeff_tapSeries_mul]
    linear_combination sample

end

/-! ## R168 -/

theorem coeff_eq_of_dvd_sub {u v : K⟦X⟧} {n k : Nat} (h : X ^ n ∣ u - v) (hk : k < n) : coeff k u = coeff k v :=
  sub_eq_zero.mp ((map_sub (coeff k) u v).symm.trans (X_pow_dvd_iff.mp h k hk))

/-- Settles O40: the driven outputs less the zero-input ones meet the equations of the filters on zero memories, and so do
the convolutions with the impulse responses. -/
theorem cascadeSuperposes : Obligations.CascadeSuperposes := by
  intro K _ _ _ lg pw rnd A wz wp m et hs hz hp N driven zero k hk
  obtain ⟨impulse_s, impulse_h⟩ := impulse_dvd (lg := lg) (pw := pw) (rnd := rnd) A wz wp
  obtain ⟨synthesis, weighting⟩ := cascade_convolves
    (synthesizes_sub_dvd (cascade_synthesizes N A wz wp m et hs) (cascade_synthesizes N A wz wp m (zero5 N) hs))
    (weights_sub_dvd (cascade_weights N A wz wp m et hz hp) (cascade_weights N A wz wp m (zero5 N) hz hp))
    impulse_s impulse_h
  have synthesisEq := coeff_eq_of_dvd_sub synthesis hk
  have weightingEq := coeff_eq_of_dvd_sub weighting hk
  rw [map_sub, coeff_mk, coeff_mk, coeff_mk_mul, synthesisOutput, get_map5] at synthesisEq
  rw [map_sub, coeff_mk, coeff_mk, coeff_mk_mul, weightingOutput, get_map5] at weightingEq
  exact ⟨eq_add_of_sub_eq' synthesisEq, eq_add_of_sub_eq' weightingEq⟩

end Sys2Proof.Machine
end

section
/-! SUPPORT. The vector quantizer (44_vq.md): TREVCONV and its adjoint, the search of VQSEARCH over any NUM whose comparisons
order it, the classified gain in exact arithmetic (R188), and EXCITE. -/

namespace Sys2Proof.Machine

variable {α : Type}

/-! ## TREVCONV -/

theorem exec_trevconv (s : State) :
    exec .trevconv s = .next (s.setLoc { s.loc with pn := trevconv binary32 s.H s.loc.xn }) := rfl

theorem get_trevconv (N : NumOps α) (H xn : Vec5 α) {k : Nat} (hk : k < 5) :
    (trevconv N H xn).get k = sumFrom N k (5 - k) (fun i => N.mul (xn.get i) (H.get (i - k))) := get_ofFn _ hk

/-- The triangular sums of R181 written out. -/
theorem trevconv_eq (N : NumOps α) (H xn : Vec5 α) :
    let t := fun i k => N.mul (xn.get i) (H.get k)
    trevconv N H xn =
      ⟨N.add (N.add (N.add (N.add (N.add N.zero (t 0 0)) (t 1 1)) (t 2 2)) (t 3 3)) (t 4 4),
        N.add (N.add (N.add (N.add N.zero (t 1 0)) (t 2 1)) (t 3 2)) (t 4 3),
        N.add (N.add (N.add N.zero (t 2 0)) (t 3 1)) (t 4 2),
        N.add (N.add N.zero (t 3 0)) (t 4 1),
        N.add N.zero (t 4 0)⟩ := rfl

/-- Settles O43: the instruction answers the five sums as `trevconv_eq` writes them out. -/
theorem trevconvIsTheTriangularCorrelation : Obligations.TrevconvIsTheTriangularCorrelation := by
  refine ⟨by decide, fun s => ?_⟩
  rw [exec_trevconv, trevconv_eq]
  rfl

section
variable {K : Type} [Field K] [LinearOrder K] {lg pw : K → K} {rnd : K → Int}

theorem sumFrom_eq_sum_Ico (lo cnt : Nat) (t : Nat → K) :
    sumFrom (exactNum K lg pw rnd) lo cnt t = ∑ i ∈ Finset.Ico lo (lo + cnt), t i := by
  induction cnt with
  | zero => simp [exactNum_zero]
  | succ n ih => rw [sumFrom_succ, ih, exactNum_add, ← Nat.add_assoc, Finset.sum_Ico_succ_top (Nat.le_add_right lo n)]

end

/-- Settles O44: both products are the sum of `xn[i]·H[i−k]·y[k]` over the pairs `k ≤ i ≤ 4`, taken in the two orders. -/
theorem trevconvIsAdjointToFiltering : Obligations.TrevconvIsAdjointToFiltering := by
  intro K _ _ _ lg pw rnd H xn y N
  calc ∑ k ∈ Finset.range 5, (trevconv N H xn).get k * y k
      = ∑ k ∈ Finset.range 5, ∑ i ∈ Finset.Ico k 5, xn.get i * (H.get (i - k) * y k) := by
        refine Finset.sum_congr rfl fun k hk => ?_
        have hk := Finset.mem_range.mp hk
        rw [get_trevconv N H xn hk, sumFrom_eq_sum_Ico, Nat.add_sub_cancel' hk.le, Finset.sum_mul]
        exact Finset.sum_congr rfl fun i _ => mul_assoc ..
    _ = ∑ i ∈ Finset.range 5, ∑ k ∈ Finset.range (i + 1), xn.get i * (H.get (i - k) * y k) :=
        Finset.sum_comm' fun k i => by simp only [Finset.mem_range, Finset.mem_Ico]; omega
    _ = ∑ i ∈ Finset.range 5, xn.get i * filterShape N H y i := by
        refine Finset.sum_congr rfl fun i _ => ?_
        rw [filterShape, sumFrom_exactNum, Finset.mul_sum]
        rfl

/-! ## The search -/

theorem exec_vqsearch (s : State) :
    exec .vqsearch s = .next (s.setLoc { s.loc with idx := vqsearch cfg s.H s.E s.loc.xn }) := rfl

/-- What the search makes of codeword `j` before it compares (R183). -/
def candidate (C : Cfg α) (pn : Vec5 α) (E : List α) (j : Nat) : Best α :=
  let cor := correlation C pn j
  let g := gainIndex C cor (rd C.num E j)
  { d := distortion C g (rd C.num E j) cor, shape := j, gain := g }

/-- What the search needs of the comparisons of a NUM; the numbers it cannot compare stand in neither. -/
structure SearchOrder (N : NumOps α) : Prop where
  lt_irrefl : ∀ a, N.lt a a = false
  le_of_lt : ∀ a b, N.lt a b = true → N.le a b = true
  lt_of_le_of_lt : ∀ a b c, N.le a b = true → N.lt b c = true → N.lt a c = true

theorem binary32_searchOrder : SearchOrder binary32 where
  lt_irrefl a := Bool.eq_false_iff.mpr fun h => (b32Lt_iff.mp h).2.2.false
  le_of_lt a b h := by
    obtain ⟨ha, hb, hlt⟩ := b32Lt_iff.mp h
    exact b32Le_iff.mpr ⟨ha, hb, hlt.le⟩
  lt_of_le_of_lt a b c hab hbc := by
    obtain ⟨ha, -, hab⟩ := b32Le_iff.mp hab
    obtain ⟨-, hc, hbc⟩ := b32Lt_iff.mp hbc
    exact b32Lt_iff.mpr ⟨ha, hc, hab.trans_lt hbc⟩

/-- `bs` is the first of the codewords below `n` with the least distortion (R187); only a distortion strictly below that of
codeword 0 takes the place of codeword 0 (R189 e). -/
structure FirstLeast (N : NumOps α) (d : Nat → α) (n bs : Nat) : Prop where
  bound : bs < n
  least : ∀ j < n, N.lt (d j) (d bs) = false
  first : ∀ j < bs, N.le (d j) (d bs) = false
  start : bs = 0 ∨ N.lt (d bs) (d 0) = true

section
variable {N : NumOps α} {d : Nat → α} {n bs : Nat}

theorem firstLeast_one (order : SearchOrder N) : FirstLeast N d 1 0 where
  bound := one_pos
  least j hj := by rw [Nat.lt_one_iff.mp hj, order.lt_irrefl]
  first j hj := absurd hj j.not_lt_zero
  start := .inl rfl

/-- A codeword strictly below the best so far is the best from then on. -/
theorem FirstLeast.replaced (order : SearchOrder N) (best : FirstLeast N d n bs) (below : N.lt (d n) (d bs) = true) :
    FirstLeast N d (n + 1) n := by
  have no_earlier_le : ∀ j < n, N.le (d j) (d n) = false := fun j hj => Bool.eq_false_iff.mpr fun hle =>
    Bool.eq_false_iff.mp (best.least j hj) (order.lt_of_le_of_lt _ _ _ hle below)
  refine ⟨n.lt_succ_self, fun j hj => ?_, no_earlier_le, .inr ?_⟩
  · obtain hj | rfl := Nat.lt_succ_iff_lt_or_eq.mp hj
    · exact Bool.eq_false_iff.mpr fun hlt => Bool.eq_false_iff.mp (no_earlier_le j hj) (order.le_of_lt _ _ hlt)
    · exact order.lt_irrefl _
  · obtain rfl | lt_zero := best.start
    · exact below
    · exact order.lt_of_le_of_lt _ _ _ (order.le_of_lt _ _ below) lt_zero

/-- A codeword not strictly below the best so far leaves it the best. -/
theorem FirstLeast.kept (best : FirstLeast N d n bs) (notBelow : N.lt (d n) (d bs) = false) :
    FirstLeast N d (n + 1) bs where
  bound := best.bound.trans n.lt_succ_self
  least j hj := by
    obtain hj | rfl := Nat.lt_succ_iff_lt_or_eq.mp hj
    · exact best.least j hj
    · exact notBelow
  first := best.first
  start := best.start

end

section
variable (C : Cfg α) (pn : Vec5 α) (E : List α)

theorem vqStep_none (j : Nat) : vqStep C pn E none j = some (candidate C pn E j) := rfl

theorem vqStep_some (b : Best α) (j : Nat) : vqStep C pn E (some b) j
    = if C.num.lt (candidate C pn E j).d b.d then some (candidate C pn E j) else some b := rfl

theorem vqBest_succ (n : Nat) : vqBest C pn E (n + 1) = vqStep C pn E (vqBest C pn E n) n := by
  rw [vqBest, List.range_succ, List.foldl_concat, vqBest]

/-- After any number of codewords the search holds the first of least distortion. -/
theorem vqBest_firstLeast (order : SearchOrder C.num) {n : Nat} (hn : 1 ≤ n) : ∃ bs,
    vqBest C pn E n = some (candidate C pn E bs) ∧ FirstLeast C.num (fun j => (candidate C pn E j).d) n bs := by
  induction n, hn using Nat.le_induction with
  | base => exact ⟨0, vqStep_none C pn E 0, firstLeast_one order⟩
  | succ n _ ih =>
    obtain ⟨bs, held, best⟩ := ih
    rw [vqBest_succ, held, vqStep_some]
    split
    next below => exact ⟨n, rfl, best.replaced order below⟩
    next notBelow => exact ⟨bs, rfl, best.kept (Bool.eq_false_iff.mpr notBelow)⟩

end

theorem vqsearch_firstLeast (C : Cfg α) (order : SearchOrder C.num) (H : Vec5 α) (E : List α) (xn : Vec5 α) :
    let c := candidate C (trevconv C.num H xn) E
    ∃ bs, vqsearch C H E xn = packIndex bs (c bs).gain ∧ FirstLeast C.num (fun j => (c j).d) 128 bs := by
  intro c
  have one_le : 1 ≤ 128 := by decide
  obtain ⟨bs, held, best⟩ := vqBest_firstLeast C (trevconv C.num H xn) E order one_le
  refine ⟨bs, ?_, best⟩
  unfold vqsearch
  rw [held]
  rfl

theorem gainLevel_le_three (C : Cfg α) (pc e : α) : gainLevel C pc e ≤ 3 := by
  have flag (b : Bool) : (if b then 1 else 0) ≤ 1 := by cases b <;> decide
  exact Nat.add_le_add (Nat.add_le_add (flag _) (flag _)) (flag _)

theorem gainIndex_eq (C : Cfg α) (cor e : α) :
    gainIndex C cor e = gainLevel C (C.num.abs cor) e + if C.num.lt cor C.num.zero then 4 else 0 := by
  rw [gainIndex]
  split <;> rfl

theorem gainIndex_lt_eight (C : Cfg α) (cor e : α) : gainIndex C cor e < 8 := by
  have level := gainLevel_le_three C (C.num.abs cor) e
  rw [gainIndex_eq]
  split <;> omega

/-- Settles O45: the search holds the first codeword of least distortion, which its candidate's index names. -/
theorem vqsearchReturnsTheFirstLeastDistortion : Obligations.VqsearchReturnsTheFirstLeastDistortion := by
  refine ⟨by decide, fun s => ?_⟩
  intro pn cor e exceeds g d
  have gain_eq : ∀ j, g j = (candidate cfg pn s.E j).gain := fun j => (gainIndex_eq cfg (cor j) (e j)).symm
  have d_eq : d = fun j => (candidate cfg pn s.E j).d := funext fun j => by
    show distortion cfg (g j) (e j) (cor j) = _
    rw [gain_eq]
    rfl
  have gain_lt : ∀ j, g j < 8 := fun j => gain_eq j ▸ gainIndex_lt_eight cfg (cor j) (e j)
  obtain ⟨bs, found, best⟩ := vqsearch_firstLeast cfg binary32_searchOrder s.H s.E s.loc.xn
  change vqsearch cfg s.H s.E s.loc.xn = packIndex bs (candidate cfg pn s.E bs).gain at found
  change FirstLeast binary32 (fun j => (candidate cfg pn s.E j).d) 128 bs at best
  rw [← gain_eq, packIndex_eq_ofNat best.bound (gain_lt bs)] at found
  rw [← d_eq] at best
  refine ⟨bs, best.bound, gain_lt bs, ?_, best.least, best.first, fun nan => ?_, fun number => ?_⟩
  · rw [exec_vqsearch, found]
    rfl
  · refine best.start.resolve_right fun lt_zero => ?_
    exact Bool.eq_false_iff.mp nan (b32Lt_iff.mp lt_zero).2.1
  · obtain rfl | lt_zero := best.start
    · exact number
    · exact (b32Lt_iff.mp lt_zero).1

/-! ## The classified gain in exact arithmetic (R188) -/

section
variable {K : Type} [Field K] [LinearOrder K] {lg pw : K → K} {rnd : K → Int}

theorem exactNum_searchOrder : SearchOrder (exactNum K lg pw rnd) where
  lt_irrefl a := decide_eq_false (lt_irrefl a)
  le_of_lt _ _ h := decide_eq_true (of_decide_eq_true h).le
  lt_of_le_of_lt _ _ _ hab hbc := decide_eq_true ((of_decide_eq_true hab).trans_lt (of_decide_eq_true hbc))

/-- The constraints of R11 on CB_GAIN: four increasing magnitudes, then the same four negated. -/
structure GainsOrdered (G : Nat → K) : Prop where
  pos : 0 < G 0
  increasing : ∀ i < 3, G i < G (i + 1)
  negated : ∀ g < 4, G (g + 4) = -G g

section
variable {G : Nat → K} (gains : GainsOrdered G)
include gains

theorem GainsOrdered.mono {i j : Nat} (hij : i ≤ j) (hj : j < 4) : G i ≤ G j := by
  induction j, hij using Nat.le_induction with
  | base => exact le_rfl
  | succ j _ ih => exact (ih (by omega)).trans (gains.increasing j (by omega)).le

theorem GainsOrdered.pos_of_lt {g : Nat} (hg : g < 4) : 0 < G g := gains.pos.trans_le (gains.mono g.zero_le hg)

end

section
variable {C : Cfg K} (num_eq : C.num = exactNum K lg pw rnd)
include num_eq

theorem distortion_exact (g : Nat) (e cor : K) :
    distortion C g e cor = C.cbGain g * C.cbGain g * e - 2 * C.cbGain g * cor := by
  rw [distortion, cbGsq, cbG2, num_eq]
  rfl

/-- Two gains differ in distortion by their gap times how far their sum, scaled, lies beyond twice the correlation. -/
theorem distortion_sub_distortion (g l : Nat) (e cor : K) : distortion C g e cor - distortion C l e cor
    = (C.cbGain g - C.cbGain l) * ((C.cbGain g + C.cbGain l) * e - 2 * cor) := by
  rw [distortion_exact num_eq, distortion_exact num_eq]
  ring

/-- A gain of the negative half does for a correlation what its magnitude does for the opposite one. -/
theorem distortion_add_four (gains : GainsOrdered C.cbGain) {g : Nat} (hg : g < 4) (e cor : K) :
    distortion C (g + 4) e cor = distortion C g e (-cor) := by
  rw [distortion_exact num_eq, distortion_exact num_eq, gains.negated g hg]
  ring

theorem num_lt_eq_false_iff (a b : K) : C.num.lt a b = false ↔ b ≤ a := by
  rw [num_eq]
  exact decide_eq_false_iff_not.trans not_lt

variable [IsStrictOrderedRing K]

theorem lt_cbGb_iff (i : Nat) (e pc : K) : C.num.lt (C.num.mul (cbGb C i) e) pc = true
    ↔ (C.cbGain i + C.cbGain (i + 1)) * e < 2 * pc := by
  rw [cbGb, num_eq]
  show decide ((C.cbGain i + C.cbGain (i + 1)) / 2 * e < pc) = true ↔ _
  rw [decide_eq_true_iff, div_mul_eq_mul_div, div_lt_iff₀' two_pos]

variable (gains : GainsOrdered C.cbGain)
include gains

/-- As the midpoints increase, the level counts an initial run of them. -/
theorem lt_gainLevel_iff {e : K} (he : 0 ≤ e) (pc : K) {i : Nat} (hi : i < 3) :
    i < gainLevel C pc e ↔ (C.cbGain i + C.cbGain (i + 1)) * e < 2 * pc := by
  have midpoints {i : Nat} (hi : i < 2) :
      (C.cbGain i + C.cbGain (i + 1)) * e ≤ (C.cbGain (i + 1) + C.cbGain (i + 2)) * e :=
    mul_le_mul_of_nonneg_right
      (add_le_add (gains.increasing i (by omega)).le (gains.increasing (i + 1) (by omega)).le) he
  have first_of_second := (midpoints zero_lt_two).trans_lt (c := 2 * pc)
  have second_of_third := (midpoints one_lt_two).trans_lt (c := 2 * pc)
  simp only [gainLevel, lt_cbGb_iff num_eq]
  match i, hi with
  | 0, _ => grind
  | 1, _ => grind
  | 2, _ => grind

/-- Of the positive gains, the level is the best for a correlation: a greater gain lies beyond a midpoint not exceeded, a
lesser one before a midpoint exceeded. -/
theorem distortion_gainLevel_le {e : K} (he : 0 ≤ e) (pc : K) {g : Nat} (hg : g < 4) :
    distortion C (gainLevel C pc e) e pc ≤ distortion C g e pc := by
  have level_le := gainLevel_le_three C pc e
  have exceeded {i : Nat} (hi : i < 3) := lt_gainLevel_iff num_eq gains he pc hi
  generalize gainLevel C pc e = l at level_le exceeded ⊢
  rw [← sub_nonneg, distortion_sub_distortion num_eq]
  obtain below | rfl | above := lt_trichotomy g l
  · obtain ⟨i, rfl⟩ := Nat.exists_eq_add_one_of_ne_zero (Nat.ne_zero_of_lt below)
    have gap := gains.mono below.le (by omega)
    have sum_le := mul_le_mul_of_nonneg_right
      (add_le_add_left (gains.mono (Nat.le_of_lt_succ below) (by omega)) (C.cbGain (i + 1))) he
    have midpoint := (exceeded (by omega)).mp i.lt_succ_self
    exact mul_nonneg_of_nonpos_of_nonpos (sub_nonpos.mpr gap) (sub_nonpos.mpr (sum_le.trans midpoint.le))
  · rw [sub_self, zero_mul]
  · have gap := gains.mono above.le hg
    have sum_le := mul_le_mul_of_nonneg_right
      (add_le_add_right (gains.mono above hg) (C.cbGain l)) he
    have midpoint := not_lt.mp ((exceeded (by omega)).not.mp l.lt_irrefl)
    rw [add_comm (C.cbGain g)]
    exact mul_nonneg (sub_nonneg.mpr gap) (sub_nonneg.mpr (midpoint.trans sum_le))

theorem distortion_gainIndex (e cor : K) :
    distortion C (gainIndex C cor e) e cor = distortion C (gainLevel C |cor| e) e |cor| := by
  have level := Nat.lt_succ_of_le (gainLevel_le_three C |cor| e)
  have index : gainIndex C cor e = gainLevel C |cor| e + if cor < 0 then 4 else 0 := by
    rw [gainIndex_eq, num_eq]
    simp [exactNum]
  rw [index]
  split
  next neg => rw [distortion_add_four num_eq gains level, abs_of_neg neg]
  next nonneg => rw [Nat.add_zero, abs_of_nonneg (not_lt.mp nonneg)]

/-- Under a positive gain a greater correlation means a lesser distortion. -/
theorem distortion_anti {g : Nat} (hg : g < 4) (e : K) {cor pc : K} (h : cor ≤ pc) :
    distortion C g e pc ≤ distortion C g e cor := by
  rw [distortion_exact num_eq, distortion_exact num_eq]
  exact sub_le_sub_left (mul_le_mul_of_nonneg_left h (mul_pos two_pos (gains.pos_of_lt hg)).le) _

/-- The first half of R188: the classified gain is the best of the eight. -/
theorem distortion_gainIndex_le {e : K} (he : 0 ≤ e) (cor : K) {g : Nat} (hg : g < 8) :
    distortion C (gainIndex C cor e) e cor ≤ distortion C g e cor := by
  rw [distortion_gainIndex num_eq gains]
  obtain positive | negative := Nat.lt_or_ge g 4
  · exact (distortion_gainLevel_le num_eq gains he _ positive).trans
      (distortion_anti num_eq gains positive e (le_abs_self cor))
  · obtain ⟨i, rfl⟩ := Nat.exists_eq_add_of_le' negative
    have hi : i < 4 := by omega
    rw [distortion_add_four num_eq gains hi]
    exact (distortion_gainLevel_le num_eq gains he _ hi).trans (distortion_anti num_eq gains hi e (neg_le_abs cor))

end

end

/-- Settles O46: the classified gain is the best for its shape, and the search compares the shapes at their best gains. -/
theorem vqsearchIsOptimalOverAllPairs : Obligations.VqsearchIsOptimalOverAllPairs := by
  intro K _ _ _ lg pw rnd C H xn E num_eq pos lt01 lt12 lt23 negated energies idx cor j hj g hg
  have gains : GainsOrdered C.cbGain := by
    refine ⟨pos, fun i hi => ?_, negated⟩
    match i, hi with
    | 0, _ => exact lt01
    | 1, _ => exact lt12
    | 2, _ => exact lt23
  have classified := distortion_gainIndex_le num_eq gains (energies j hj) (cor j) hg
  refine ⟨classified, le_trans ?_ classified⟩
  obtain ⟨bs, found, best⟩ := vqsearch_firstLeast C (num_eq ▸ exactNum_searchOrder) H E xn
  have gain_lt := gainIndex_lt_eight C (cor bs) (rd C.num E bs)
  have index : idx = bs * 8 + gainIndex C (cor bs) (rd C.num E bs) :=
    (congrArg BitVec.toNat found).trans (packIndex_toNat best.bound gain_lt)
  have shape_eq : idx / 8 = bs := by omega
  have gain_eq : idx % 8 = gainIndex C (cor bs) (rd C.num E bs) := by omega
  rw [shape_eq, gain_eq]
  exact (num_lt_eq_false_iff num_eq _ _).mp (best.least j hj)

/-! ## EXCITE -/

theorem exec_excite (s : State) :
    exec .excite s = .next (s.setLoc { s.loc with et := excite cfg s.loc.idx s.loc.gain }) := rfl

theorem idxShape_eq (idx : BitVec 10) : idxShape idx = idx.toNat / 8 := by
  have := idx.isLt
  rw [idxShape, BitVec.extractLsb'_toNat, Nat.shiftRight_eq_div_pow]
  omega

theorem idxGain_eq (idx : BitVec 10) : idxGain idx = idx.toNat % 8 := by
  rw [idxGain, BitVec.extractLsb'_toNat, Nat.shiftRight_zero]

/-- Settles O47: EXCITE's two fields are the quotient and the remainder of the index. -/
theorem exciteScalesTheShape : Obligations.ExciteScalesTheShape := by
  refine ⟨by decide, fun s => ⟨_, exec_excite s, fun k hk => ?_⟩⟩
  rw [excite, get_ofFn _ hk, idxShape_eq, idxGain_eq]
  rfl

end Sys2Proof.Machine
end

section
/-! SUPPORT. The controller's commands (45_controller.md): NOP and FINISH, ENC_VEC as its micro-operations (R208), the three ways
DEC_VEC ends a session (R213), and that nothing but an INIT leads out of FINISHED (60_exceptions.md R263, R264). -/

namespace Sys2Proof.Machine

/-! ## NOP and FINISH -/

theorem exec_nop (s : State) : exec .nop s = .next s := rfl

/-- Settles O1: 0x0000 is the first row of the command words, and NOP answers the state it is given. -/
theorem nopChangesNothing : Obligations.NopChangesNothing := ⟨rfl, exec_nop⟩

theorem exec_finish (s : State) : exec .finish s = execFinish s := rfl

/-- Settles O5: of the two ends of FINISH, CTRL says which. -/
theorem finishEndsARunningSession : Obligations.FinishEndsARunningSession := by
  refine ⟨rfl, fun s => ?_⟩
  rw [exec_finish]
  obtain ⟨running, ends⟩ | ⟨notRunning, refused⟩ := execFinish_cases s
  · exact ⟨fun _ => ends, fun h => absurd running h⟩
  · exact ⟨fun h => absurd h notRunning, fun _ => refused⟩

/-! ## ENC_VEC line by line -/

/-- Lines 5 and 7 of R208, the elementwise ones: the weighted input less the zero-input response, over the predicted gain. -/
def searchTarget (l : Locals) : Vec5 B32 := map5 (fun x => b32Div x l.gain) (zip5 b32Sub l.v l.zw)

/-- Lines 1 to 8 of R208, each run as its instruction on what the line before it left: up to the index. -/
theorem exec_encodeSearch (s : State) (sv : Vec5 B32) :
    ∃ t1 t2 t3 t4 t5 t6 : State,
      exec .sched s = .next t1
      ∧ exec .ringwr (t1.setLoc { t1.loc with wring := .qin, v := sv }) = .next t2
      ∧ exec .zresp t2 = .next t3
      ∧ exec .pwfilt (t3.setLoc { t3.loc with inp := sv }) = .next t4
      ∧ exec .predgain t4 = .next t5
      ∧ exec .vqsearch (t5.setLoc { t5.loc with xn := searchTarget t5.loc }) = .next t6
      ∧ t6.toCoreState = encodeWeighted cfg sv s.toCoreState
      ∧ t6.loc.gain = corePredgain cfg (encodeWeighted cfg sv s.toCoreState)
      ∧ t6.loc.idx = (encodeVector cfg sv s.toCoreState).idx :=
  ⟨_, _, _, _, _, _, exec_sched s, exec_ringwr _, exec_zresp _, exec_pwfilt _, exec_predgain _, exec_vqsearch _,
    rfl, rfl, rfl⟩

/-- Lines 11 to 14 of R208 on the latched excitation, each run as its instruction. -/
theorem exec_synthesize (t : State) :
    ∃ t1 t2 t3 t4 : State,
      exec .ringwr (t.setLoc { t.loc with wring := .qexc, v := t.loc.et }) = .next t1
      ∧ exec .updgain t1 = .next t2
      ∧ exec .memupd t2 = .next t3
      ∧ exec .ringwr (t3.setLoc { t3.loc with wring := .qsyn, v := t3.loc.sq }) = .next t4
      ∧ t4.toCoreState = (synthesizeVector cfg t.loc.et t.toCoreState).1 :=
  ⟨_, _, _, _, exec_ringwr _, exec_updgain _, exec_memupd _, exec_ringwr _, rfl⟩

/-- The bytes of an index word are the quotient and the remainder of the index (30_encoding.md R91, R95). -/
theorem indexBytes_eq (idx : BitVec 10) :
    indexBytes idx = [BitVec.ofNat 8 (idx.toNat / 256), BitVec.ofNat 8 (idx.toNat % 256)] := by
  have word : (idx.setWidth 16).toNat = idx.toNat := by
    rw [BitVec.toNat_setWidth]
    exact Nat.mod_eq_of_lt (by omega)
  obtain ⟨high, low⟩ := wordBytes_toNat (idx.setWidth 16)
  have high_eq : (wordBytes (idx.setWidth 16)).1 = BitVec.ofNat 8 (idx.toNat / 256) :=
    BitVec.eq_of_toNat_eq (by rw [high, word, BitVec.toNat_ofNat]; omega)
  have low_eq : (wordBytes (idx.setWidth 16)).2 = BitVec.ofNat 8 (idx.toNat % 256) :=
    BitVec.eq_of_toNat_eq (by rw [low, word, BitVec.toNat_ofNat]; omega)
  rw [indexBytes, high_eq, low_eq]

/-- Settles O7: the lines up to the index, EXCITE of it, and the lines from the excitation on are the three parts of ENC_VEC's
sequence. -/
theorem encVecRunsItsMicroOperationsInOrder : Obligations.EncVecRunsItsMicroOperationsInOrder := by
  intro s sv rest running enc din
  have ready : vectorReady .enc s.toCoreState = true := (vectorReady_iff ..).mpr ⟨running, enc⟩
  have taken : takeVector s.DIN_SMP = some (sv, rest) := din ▸ takeVector_toList_append sv rest
  obtain ⟨t1, t2, t3, t4, t5, t6, line1, line2, line3, line4, line6, line8, weighted, gain, idx⟩ := exec_encodeSearch s sv
  have line10 := exec_excite t6
  obtain ⟨t8, t9, t10, t11, line11, line12, line13, line14, synthesized⟩ :=
    exec_synthesize (t6.setLoc { t6.loc with et := excite cfg t6.loc.idx t6.loc.gain })
  have core : (encodeVector cfg sv s.toCoreState).core = stepEnd t11.toCoreState := by
    rw [encodeVector_core_eq, synthesized, ← weighted, ← idx, setLoc_loc, setLoc_toCoreState, gain, weighted]
  refine ⟨t1, t2, t3, t4, t5, t6, _, t8, t9, t10, t11, line1, line2, line3, line4, line6, line8, line10, line11, line12,
    line13, line14, ?_⟩
  rw [exec_encVec, execEncVec_runs ready taken, core, ← idx, indexBytes_eq]
  rfl

/-! ## The ends of a decoder's session -/

theorem takeIndex_outOfRange {b0 b1 : Byte} (rest : List Byte) (h : 1024 ≤ b0.toNat * 256 + b1.toNat) :
    takeIndex (b0 :: b1 :: rest) = .outOfRange rest := by
  have illegal : ¬ indexLegal (assembleIndex b0 b1) = true := by
    rw [indexLegal_iff, assembleIndex_toNat]
    omega
  exact if_neg illegal

/-- The three fatal ends of R213, each as DIN decides it. -/
theorem execDecVec_ends {s : State} (ready : vectorReady .dec s.toCoreState = true) :
    (takeIndex s.DIN_IDX = .exhausted → execDecVec s = .next (s.setCore { s.toCoreState with CTRL := .finished }))
      ∧ (takeIndex s.DIN_IDX = .truncated →
          execDecVec s = .next { s with toCoreState := raiseFatal .truncated s.toCoreState, DIN_IDX := [] })
      ∧ ∀ rest, takeIndex s.DIN_IDX = .outOfRange rest →
          execDecVec s = .next { s with toCoreState := raiseFatal .indexRange s.toCoreState, DIN_IDX := rest } := by
  refine ⟨fun taken => ?_, fun taken => ?_, fun rest taken => ?_⟩ <;> rw [execDecVec, if_pos ready, taken]

/-! ## After the end (R263, R264) -/

/-- What an answer keeps of a finished session: a next state is still finished, ERR held or a refusal's, or an INIT has begun
a new session. -/
def StaysFinished (s : State) (answer : Answer) : Prop :=
  ∀ t, answer = .next t →
    (t.CTRL = .finished ∧ (t.ERR = s.ERR ∨ t.ERR = .illegalCmd ∨ t.ERR = .badState))
      ∨ (t.CTRL = .running ∧ t.ERR = .none)

section
variable {s : State} (finished : s.CTRL = .finished)

theorem staysFinished_of_begun {t : State} (ctrl : t.CTRL = .running) (err : t.ERR = .none) : StaysFinished s (.next t) := by
  rintro _ ⟨⟩
  exact .inr ⟨ctrl, err⟩

include finished

theorem staysFinished_of_held {t : State} (ctrl : t.CTRL = s.CTRL) (err : t.ERR = s.ERR) : StaysFinished s (.next t) := by
  rintro _ ⟨⟩
  exact .inl ⟨ctrl.trans finished, .inl err⟩

theorem staysFinished_of_setLoc (l : Locals) : StaysFinished s (.next (s.setLoc l)) := staysFinished_of_held finished rfl rfl

theorem staysFinished_of_refused {code : ErrCode} (refusal : code = .illegalCmd ∨ code = .badState) :
    StaysFinished s (.next (s.setCore (refuseCommand code s.toCoreState))) := by
  rintro _ ⟨⟩
  exact .inl ⟨finished, .inr refusal⟩

theorem vectorReady_of_finished (mode : Mode) : vectorReady mode s.toCoreState = false := by
  simp [vectorReady, finished]

theorem exec_encVec_of_finished : exec .encVec s = .next (s.setCore (refuseCommand .badState s.toCoreState)) := by
  simp [exec_encVec, execEncVec, vectorReady_of_finished finished]

theorem exec_decVec_of_finished : exec .decVec s = .next (s.setCore (refuseCommand .badState s.toCoreState)) := by
  simp [exec_decVec, execDecVec, vectorReady_of_finished finished]

theorem exec_finish_of_finished : exec .finish s = .next (s.setCore (refuseCommand .badState s.toCoreState)) := by
  simp [exec_finish, execFinish, finished]

theorem execLevdur_staysFinished : StaysFinished s (execLevdur s) := by
  unfold execLevdur
  split <;> exact staysFinished_of_held finished rfl rfl

theorem execLevdurSyn_staysFinished : StaysFinished s (execLevdurSyn s) := by
  unfold execLevdurSyn
  split <;> exact staysFinished_of_held finished rfl rfl

/-- The vector commands and FINISH are refused, an INIT begins a session, and no micro-operation writes CTRL or ERR. -/
theorem exec_staysFinished (i : Instr) : StaysFinished s (exec i s) := by
  cases i with
  | initEnc | initDec => exact staysFinished_of_begun rfl rfl
  | encVec =>
    rw [exec_encVec_of_finished finished]
    exact staysFinished_of_refused finished (.inr rfl)
  | decVec =>
    rw [exec_decVec_of_finished finished]
    exact staysFinished_of_refused finished (.inr rfl)
  | finish =>
    rw [exec_finish_of_finished finished]
    exact staysFinished_of_refused finished (.inr rfl)
  | levdur => exact execLevdur_staysFinished finished
  | levdurSyn => exact execLevdurSyn_staysFinished finished
  | hwin => exact staysFinished_of_held finished (storeHwin_CTRL ..) (storeHwin_ERR ..)
  | adaptSyn => exact staysFinished_of_held finished (adaptSyn_CTRL ..) (adaptSyn_ERR ..)
  | adaptGain => exact staysFinished_of_held finished (adaptGain_CTRL ..) (adaptGain_ERR ..)
  | adaptWgt => exact staysFinished_of_held finished (adaptWgt_CTRL ..) (adaptWgt_ERR ..)
  | commitSyn => exact staysFinished_of_held finished (commitSyn_CTRL ..) (commitSyn_ERR ..)
  | commitGain => exact staysFinished_of_held finished (commitGain_CTRL ..) (commitGain_ERR ..)
  | commitWgt => exact staysFinished_of_held finished (commitWgt_CTRL ..) (commitWgt_ERR ..)
  | sched => exact staysFinished_of_held finished (sched_CTRL ..) (sched_ERR ..)
  | ringwr => exact staysFinished_of_held finished (ringWrite_CTRL ..) (ringWrite_ERR ..)
  -- These write elements other than CTRL and ERR, or nothing.
  | nop | updgain | pwfilt | memupd | iresp | shapen | postfilt => exact staysFinished_of_held finished rfl rfl
  -- These write latches alone.
  | index | bwexp | predgain | zresp | trevconv | vqsearch | excite | ringrd | pcmIn | pcmOut =>
    exact staysFinished_of_setLoc finished _

theorem rejectWord_staysFinished (r : Reject) : StaysFinished s (rejectWord r s) := by
  obtain ⟨-, refused⟩ | ⟨-, accepted, -⟩ | ⟨-, -, refused⟩ | ⟨-, unassigned⟩ := rejectWord_cases r s
  · rw [refused]
    exact staysFinished_of_refused finished (.inl rfl)
  · rw [vectorReady_of_finished finished] at accepted
    cases accepted
  · rw [refused]
    exact staysFinished_of_refused finished (.inr rfl)
  · rw [unassigned]
    rintro _ ⟨⟩

theorem runWord_staysFinished (p : CodeWord) : StaysFinished s (runWord p s) := by
  obtain ⟨i, -, runs⟩ | ⟨r, -, rejects⟩ := runWord_cases p s
  · rw [runs]
    exact exec_staysFinished finished i
  · rw [rejects]
    exact rejectWord_staysFinished finished r

end

/-- Settles O12: DIN decides which of the three ends a decoder meets, and whatever word a step then runs, the session stays
finished or an INIT begins another. -/
theorem decVecEndsTheSessionPrecisely : Obligations.DecVecEndsTheSessionPrecisely := by
  refine ⟨fun s running dec => ?_, fun s t finished stepped => ?_⟩
  · obtain ⟨exhausted, truncated, outOfRange⟩ := execDecVec_ends ((vectorReady_iff .dec s.toCoreState).mpr ⟨running, dec⟩)
    rw [exec_decVec]
    exact ⟨fun empty => exhausted (empty ▸ rfl), fun _ oneByte => truncated (oneByte ▸ rfl),
      fun _ _ rest twoBytes large => outOfRange rest (twoBytes ▸ takeIndex_outOfRange rest large)⟩
  · obtain ⟨p, -, bench⟩ | ⟨-, -, idle⟩ | ⟨w, rest, -, -, command⟩ := step_cases s
    · exact runWord_staysFinished (s := { s with bench := none }) finished p t (bench ▸ stepped)
    · exact staysFinished_of_held finished rfl rfl t (idle ▸ stepped)
    · exact runWord_staysFinished (s := { s with CMD := rest }) finished (.cw w) t (command ▸ stepped)

end Sys2Proof.Machine
end

section
/-! SUPPORT. The interface conversions (45_controller.md R222, R223): rounding to an integer is to the nearest one, a whole number
of at most 24 bits keeps its value when it is scaled, and so PCM_IN is exact and PCM_OUT undoes it. -/

namespace Sys2Proof.Machine

/-! ## Rounding to the nearest integer (R223) -/

/-- `divNearestEven` is at most one half away, and even where it is one half away. -/
theorem divNearestEven_nearest (n : Nat) {d : Nat} (hd : 0 < d) :
    2 * |(n : Int) - divNearestEven n d * d| ≤ d
      ∧ (2 * |(n : Int) - divNearestEven n d * d| = d → divNearestEven n d % 2 = 0) := by
  have rem_lt : n % d < d := Nat.mod_lt n hd
  have quotient : (n : Int) = (n / d : Nat) * d + (n % d : Nat) := by exact_mod_cast (Nat.div_add_mod' n d).symm
  unfold divNearestEven
  split
  next up =>
    have distance : (n : Int) - (n / d + 1 : Nat) * d = (n % d : Nat) - d := by rw [quotient]; push_cast; ring
    rw [distance, abs_of_nonpos (by omega)]
    omega
  next down =>
    have distance : (n : Int) - (n / d : Nat) * d = (n % d : Nat) := by omega
    rw [distance, abs_of_nonneg (by omega)]
    omega

/-- The integer of a finite number is at most one half away, and even where it is one half away (92 D29). -/
theorem b32ToIntRound_nearest {x : B32} (finite : b32IsFinite x = true) :
    2 * |b32Key x - b32ToIntRound x * 2 ^ 149| ≤ 2 ^ 149
      ∧ (2 * |b32Key x - b32ToIntRound x * 2 ^ 149| = 2 ^ 149 → b32ToIntRound x % 2 = 0) := by
  obtain ⟨neg, e, f, rfl⟩ := finite_eq_fin finite
  obtain ⟨near, even⟩ := divNearestEven_nearest (units e f) (Nat.two_pow_pos 149)
  push_cast at near even
  cases neg with
  | false =>
    have rounded : b32ToIntRound (.fin false e f) = divNearestEven (units e f) (2 ^ 149) := rfl
    rw [b32Key_fin_pos, rounded]
    exact ⟨near, fun tie => by exact_mod_cast even tie⟩
  | true =>
    have rounded : b32ToIntRound (.fin true e f) = -divNearestEven (units e f) (2 ^ 149) := rfl
    rw [b32Key_fin_neg, rounded, neg_mul, neg_sub_neg, abs_sub_comm]
    refine ⟨near, fun tie => ?_⟩
    rw [Int.neg_emod_two]
    exact_mod_cast even tie

/-! ## Whole numbers of few bits -/

/-- `x` is the finite number of value `z · 2^sh` units of 2^-149, with the sign of `z`. -/
def IsScaled (x : B32) (z : Int) (sh : Nat) : Prop :=
  ∃ e f, x = .fin (decide (z < 0)) e f ∧ units e f = z.natAbs * 2 ^ sh

theorem IsScaled.isFinite {x : B32} {z : Int} {sh : Nat} (h : IsScaled x z sh) : b32IsFinite x = true := by
  obtain ⟨e, f, rfl, -⟩ := h
  rfl

theorem IsScaled.key {x : B32} {z : Int} {sh : Nat} (h : IsScaled x z sh) : b32Key x = z * 2 ^ sh := by
  obtain ⟨e, f, rfl, magnitude⟩ := h
  by_cases negative : z < 0
  · have absolute : (z.natAbs : Int) = -z := by omega
    rw [decide_eq_true negative, b32Key_fin_neg, magnitude]
    push_cast [absolute]
    ring
  · have absolute : (z.natAbs : Int) = z := by omega
    rw [decide_eq_false negative, b32Key_fin_pos, magnitude]
    push_cast [absolute]
    rfl

/-- A magnitude of at most 24 bits at a scale is rounded to itself: the scale it is rounded at is no greater. -/
theorem roundMagnitude_of_fits {k : Nat} (sh : Nat) {d : Nat} (hd : 0 < d) (hk : k < 2 ^ 24) :
    roundMagnitude (k * 2 ^ sh * d) d = k * 2 ^ sh := by
  have scale_le : roundScale (k * 2 ^ sh * d) d ≤ sh := by
    have bits : k * 2 ^ sh < 2 ^ (24 + sh) := by
      rw [pow_add]
      exact Nat.mul_lt_mul_of_pos_right hk (Nat.two_pow_pos sh)
    have log_lt := Nat.log_lt_of_lt_pow' (b := 2) (by omega) bits
    rw [roundScale, Nat.mul_div_cancel _ hd, Nat.log2_eq_log_two]
    omega
  rw [roundMagnitude, roundSignificand]
  generalize roundScale (k * 2 ^ sh * d) d = c at scale_le
  obtain ⟨r, rfl⟩ := Nat.exists_eq_add_of_le scale_le
  calc divNearestEven (k * 2 ^ (c + r) * d) (d * 2 ^ c) * 2 ^ c
      = divNearestEven (k * 2 ^ r * (d * 2 ^ c)) (d * 2 ^ c) * 2 ^ c := by congr 2; ring
    _ = k * 2 ^ r * 2 ^ c := by rw [divNearestEven_mul _ (by positivity)]
    _ = k * 2 ^ (c + r) := by ring

/-- An integer of at most 24 bits at a scale below the largest is a number of binary32. -/
theorem isScaled_roundUnits {z : Int} {sh d : Nat} (hd : 0 < d) (hz : z.natAbs < 2 ^ 24) (hsh : sh ≤ 253) :
    IsScaled (roundUnits (decide (z < 0)) (z.natAbs * 2 ^ sh * d) d) z sh := by
  have exact_magnitude := roundMagnitude_of_fits sh hd hz
  obtain ⟨e, f, rounded, magnitude⟩ | ⟨-, large⟩ := roundUnits_cases (decide (z < 0)) (z.natAbs * 2 ^ sh * d) hd
  · exact ⟨e, f, rounded, magnitude.trans exact_magnitude⟩
  · rw [exact_magnitude] at large
    have small : z.natAbs * 2 ^ sh < 2 ^ 24 * 2 ^ 253 :=
      calc z.natAbs * 2 ^ sh < 2 ^ 24 * 2 ^ sh := Nat.mul_lt_mul_of_pos_right hz (Nat.two_pow_pos sh)
        _ ≤ 2 ^ 24 * 2 ^ 253 := Nat.mul_le_mul_left _ (Nat.pow_le_pow_right two_pos hsh)
    exact absurd large small.not_ge

theorem isScaled_b32OfInt {z : Int} (hz : z.natAbs < 2 ^ 24) : IsScaled (b32OfInt z) z 149 := by
  simpa only [b32OfInt, b32OfRatio, mul_one] using isScaled_roundUnits (d := 1) one_pos hz (sh := 149) (by omega)

theorem b32ToIntRound_of_isScaled {x : B32} {z : Int} (h : IsScaled x z 149) : b32ToIntRound x = z := by
  obtain ⟨e, f, rfl, magnitude⟩ := h
  simp only [b32ToIntRound, magnitude, divNearestEven_mul _ (Nat.two_pow_pos 149), decide_eq_true_eq]
  split <;> omega

/-! ## IN_SCALE -/

theorem inScale_eq : b32OfRatio 1 8 = .fin false 124 0 := by decide +kernel

theorem units_inScale : units 124 0 = 2 ^ 146 := by decide +kernel

theorem b32Mul_inScale_fin (neg : Bool) (e : Fin 255) (f : Fin 8388608) :
    b32Mul (.fin neg e f) (b32OfRatio 1 8) = roundUnits neg (units e f * 2 ^ 146) (2 ^ 149) := by
  rw [inScale_eq, b32Mul, units_inScale, Bool.bne_false]

theorem b32Div_inScale_fin (neg : Bool) (e : Fin 255) (f : Fin 8388608) :
    b32Div (.fin neg e f) (b32OfRatio 1 8) = roundUnits neg (units e f * 2 ^ 149) (2 ^ 146) := by
  rw [inScale_eq, b32Div, units_inScale, if_neg (Nat.two_pow_pos 146).ne', Bool.bne_false]

theorem IsScaled.mul_inScale {x : B32} {z : Int} (h : IsScaled x z 149) (hz : z.natAbs < 2 ^ 24) :
    IsScaled (b32Mul x (b32OfRatio 1 8)) z 146 := by
  obtain ⟨e, f, rfl, magnitude⟩ := h
  rw [b32Mul_inScale_fin, magnitude, mul_right_comm]
  exact isScaled_roundUnits (Nat.two_pow_pos 149) hz (by omega)

theorem IsScaled.div_inScale {x : B32} {z : Int} (h : IsScaled x z 146) (hz : z.natAbs < 2 ^ 24) :
    IsScaled (b32Div x (b32OfRatio 1 8)) z 149 := by
  obtain ⟨e, f, rfl, magnitude⟩ := h
  rw [b32Div_inScale_fin, magnitude, mul_right_comm]
  exact isScaled_roundUnits (Nat.two_pow_pos 146) hz (by omega)

/-! ## PCM_IN -/

/-- The product on any number in place of the sample's, so that no check computes one. -/
theorem cfg_mul_inScale (x : B32) : cfg.num.mul x cfg.num.inScale = b32Mul x (b32OfRatio 1 8) := rfl

theorem cfg_ofInt (z : Int) : cfg.num.ofInt z = b32OfInt z := rfl

/-- R222 on a 16-bit sample. -/
theorem isScaled_pcmIn (p : HalfWord) : IsScaled (pcmIn cfg.num p.toInt) p.toInt 146 := by
  have bits : p.toInt.natAbs < 2 ^ 24 := by
    have := p.le_toInt
    have := p.toInt_lt
    omega
  rw [pcmIn, cfg_mul_inScale, cfg_ofInt]
  exact (isScaled_b32OfInt bits).mul_inScale bits

/-- Settles O50: the product with IN_SCALE keeps the sample's bits. -/
theorem pcmInScalesExactly : Obligations.PcmInScalesExactly := by
  refine ⟨by decide, fun s => ?_⟩
  obtain ⟨x, value, runs⟩ := execPcmIn_cases s
  have scaled : IsScaled x s.loc.p.toInt 146 := value ▸ isScaled_pcmIn s.loc.p
  exact ⟨x, runs, scaled.isFinite, scaled.key⟩

/-! ## PCM_OUT -/

theorem pcmOut_cfg (x : B32) : pcmOut cfg.num x = sat16 (b32ToIntRound (b32Div x (b32OfRatio 1 8))) := rfl

/-- Sixteen bits hold a saturated integer. -/
theorem toInt_ofInt_sat16 (n : Int) : (BitVec.ofInt 16 (sat16 n)).toInt = sat16 n := by
  obtain ⟨least, greatest⟩ := sat16_bounds n
  exact BitVec.toInt_ofInt_eq_self (by decide) (by omega) (by omega)

/-- Settles O51: the integer is that of `toIntRound`, which saturation then brings into sixteen bits. -/
theorem pcmOutRoundsAndSaturates : Obligations.PcmOutRoundsAndSaturates := by
  refine ⟨by decide, fun s => ?_⟩
  obtain ⟨p, value, runs⟩ := execPcmOut_cases s
  refine ⟨p, runs, b32ToIntRound (b32Div s.loc.x (b32OfRatio 1 8)), ?_, b32ToIntRound_nearest⟩
  rw [value, pcmOut_cfg, toInt_ofInt_sat16, sat16]

/-- R223 after R222: the quotient is the sample again. -/
theorem pcmOut_pcmIn (p : HalfWord) : pcmOut cfg.num (pcmIn cfg.num p.toInt) = p.toInt := by
  have least := p.le_toInt
  have greatest := p.toInt_lt
  have quotient := (isScaled_pcmIn p).div_inScale (by omega)
  rw [pcmOut_cfg, b32ToIntRound_of_isScaled quotient, sat16_of_bounds (by omega) (by omega)]

/-- Settles O52: PCM_OUT does not read the latch that is written between the two, and sixteen bits give back the sample. -/
theorem pcmOutUndoesPcmIn : Obligations.PcmOutUndoesPcmIn := by
  intro s q
  obtain ⟨x, scaled, pcmInRuns⟩ := execPcmIn_cases s
  obtain ⟨p, sample, pcmOutRuns⟩ := execPcmOut_cases ((s.setLoc { s.loc with x := x }).setLoc { s.loc with x := x, p := q })
  refine ⟨_, _, pcmInRuns, pcmOutRuns, ?_⟩
  calc p = BitVec.ofInt 16 (pcmOut cfg.num x) := sample
    _ = s.loc.p := by rw [scaled, pcmOut_pcmIn, BitVec.ofInt_toInt]

end Sys2Proof.Machine
end

section
/-! SUPPORT. A decoder without its postfilter (46_postfilter.md R233): no line of DEC_VEC up to the synthesized vector reads or
writes `PF_EN`, `PF_STATE` and `QIN`, and the lines after it write these and the counters alone. -/

namespace Sys2Proof.Machine

variable {α : Type}

/-- The three elements R233 leaves out, with other values. -/
def CoreState.withPostfilter (s : CoreState α) (en : Bool) (st : PfState α) (qin : List α) : CoreState α :=
  { s with PF_EN := en, PF_STATE := st, QIN := qin }

theorem sameButPostfilter_iff {c d : CoreState α} :
    SameButPostfilter c d ↔ ∃ en st qin, c = d.withPostfilter en st qin := by
  constructor
  · exact fun same => ⟨_, _, _, same⟩
  · rintro ⟨en, st, qin, rfl⟩
    rfl

theorem sameButPostfilter_withPostfilter (s : CoreState α) (en : Bool) (st : PfState α) (qin : List α) :
    SameButPostfilter (s.withPostfilter en st qin) s := rfl

theorem SameButPostfilter.symm {c d : CoreState α} (h : SameButPostfilter c d) : SameButPostfilter d c := by
  obtain ⟨en, st, qin, rfl⟩ := sameButPostfilter_iff.mp h
  rfl

theorem SameButPostfilter.trans {c d e : CoreState α} (h : SameButPostfilter c d) (h' : SameButPostfilter d e) :
    SameButPostfilter c e := by
  obtain ⟨en', st', qin', rfl⟩ := sameButPostfilter_iff.mp h'
  obtain ⟨en, st, qin, rfl⟩ := sameButPostfilter_iff.mp h
  rfl

/-! ## The adapters and the schedule -/

section
variable (C : Cfg α) (s : CoreState α) (en : Bool) (st : PfState α) (qin : List α)

theorem adapterHwin_withPostfilter (ad : Adapter) (new : List α) :
    adapterHwin C ad (s.withPostfilter en st qin) new = adapterHwin C ad s new := by
  cases ad <;> rfl

/-- Of the rings only QIN can differ. -/
theorem ringRead_withPostfilter (N : NumOps α) {q : Ring} (h : q ≠ .speech .qin) (len : Nat) :
    ringRead N (s.withPostfilter en st qin) q len = ringRead N s q len := by
  match q, h with
  | .speech .qexc, _ | .speech .qsyn, _ | .qlg, _ => rfl

theorem adaptSyn_withPostfilter :
    adaptSyn C (s.withPostfilter en st qin) = (adaptSyn C s).withPostfilter en st qin := by
  simp only [adaptSyn, adapterHwin_withPostfilter, ringRead_withPostfilter _ _ _ _ C.num (q := .speech .qsyn) nofun]
  split <;> rfl

theorem adaptGain_withPostfilter :
    adaptGain C (s.withPostfilter en st qin) = (adaptGain C s).withPostfilter en st qin := by
  simp only [adaptGain, adapterHwin_withPostfilter, ringRead_withPostfilter _ _ _ _ C.num (q := .qlg) nofun]
  split <;> rfl

/-- In a decoder the weighting adapter reads QSYN (41_adapters.md R136). -/
theorem adaptWgt_withPostfilter (dec : s.MODE = .dec) :
    adaptWgt C (s.withPostfilter en st qin) = (adaptWgt C s).withPostfilter en st qin := by
  have dec' : (s.withPostfilter en st qin).MODE = .dec := dec
  simp only [adaptWgt, dec, dec', weightingSource, adapterHwin_withPostfilter,
    ringRead_withPostfilter _ _ _ _ C.num (q := .speech .qsyn) nofun]
  split <;> rfl

theorem commitSyn_withPostfilter : commitSyn (s.withPostfilter en st qin) = (commitSyn s).withPostfilter en st qin := by
  cases ready : s.A_RDY with
  | true => rw [commitSyn_of_ready ready, commitSyn_of_ready (by exact ready)]; rfl
  | false => rw [commitSyn_of_not_ready ready, commitSyn_of_not_ready (by exact ready)]

theorem commitGain_withPostfilter : commitGain (s.withPostfilter en st qin) = (commitGain s).withPostfilter en st qin := by
  cases ready : s.GP_RDY with
  | true => rw [commitGain_of_ready ready, commitGain_of_ready (by exact ready)]; rfl
  | false => rw [commitGain_of_not_ready ready, commitGain_of_not_ready (by exact ready)]

theorem commitWgt_withPostfilter : commitWgt (s.withPostfilter en st qin) = (commitWgt s).withPostfilter en st qin := by
  cases ready : s.W_RDY with
  | true => rw [commitWgt_of_ready ready, commitWgt_of_ready (by exact ready)]; rfl
  | false => rw [commitWgt_of_not_ready ready, commitWgt_of_not_ready (by exact ready)]

theorem sched_withPostfilter (dec : s.MODE = .dec) :
    sched C (s.withPostfilter en st qin) = (sched C s).withPostfilter en st qin := by
  have same_phase : (s.withPostfilter en st qin).PHASE = s.PHASE := rfl
  cases phase : s.PHASE with
  | p1 => rw [sched_p1 C phase, sched_p1 C (same_phase.trans phase), adaptSyn_withPostfilter]
  | p2 =>
    rw [sched_p2 C phase, sched_p2 C (same_phase.trans phase), adaptGain_withPostfilter, commitGain_withPostfilter]
  | p3 =>
    rw [sched_p3 C phase, sched_p3 C (same_phase.trans phase), commitSyn_withPostfilter,
      adaptWgt_withPostfilter C _ _ _ _ (by simpa using dec), commitWgt_withPostfilter]
    rfl
  | p4 => rw [sched_p4 C phase, sched_p4 C (same_phase.trans phase)]

/-! ## The vector step -/

theorem synthesizeVector_withPostfilter (et : Vec5 α) :
    synthesizeVector C et (s.withPostfilter en st qin)
      = ((synthesizeVector C et s).1.withPostfilter en st qin, (synthesizeVector C et s).2) := rfl

theorem corePredgain_withPostfilter : corePredgain C (s.withPostfilter en st qin) = corePredgain C s := rfl

end

section
variable {c d : CoreState α}

/-- Lines 1 to 3 of R214: the same excitation, of the same gain. -/
theorem decodeVector_et_congr (C : Cfg α) (idx : BitVec 10) (dec : d.MODE = .dec) (h : SameButPostfilter c d) :
    (decodeVector C idx c).et = (decodeVector C idx d).et := by
  obtain ⟨en, st, qin, rfl⟩ := sameButPostfilter_iff.mp h
  simp only [decodeVector, sched_withPostfilter C d en st qin dec, corePredgain_withPostfilter]

/-- Lines 1 to 7 of R214. -/
theorem decodeUnfiltered_sameButPostfilter (C : Cfg α) (idx : BitVec 10) (dec : d.MODE = .dec) (h : SameButPostfilter c d) :
    SameButPostfilter (decodeUnfiltered C idx c).1 (decodeUnfiltered C idx d).1
      ∧ (decodeUnfiltered C idx c).2 = (decodeUnfiltered C idx d).2 := by
  obtain ⟨en, st, qin, rfl⟩ := sameButPostfilter_iff.mp h
  simp only [decodeUnfiltered_eq, sched_withPostfilter C d en st qin dec, corePredgain_withPostfilter,
    synthesizeVector_withPostfilter, and_true]
  exact sameButPostfilter_withPostfilter ..

/-- Line 8 of R214 writes nothing but the postfilter's memory (46_postfilter.md R232). -/
theorem decodeOutput_sameButPostfilter (C : Cfg α) (u : CoreState α × Vec5 α) :
    SameButPostfilter (decodeOutput C u).1 u.1 := by
  unfold decodeOutput
  split <;> rfl

theorem ringWrite_qin_sameButPostfilter (s : CoreState α) (v : Vec5 α) : SameButPostfilter (ringWrite s .qin v) s := rfl

theorem stepEnd_sameButPostfilter (h : SameButPostfilter c d) : SameButPostfilter (stepEnd c) (stepEnd d) := by
  obtain ⟨en, st, qin, rfl⟩ := sameButPostfilter_iff.mp h
  rfl

/-- After a vector the state is, but for the postfilter, that of lines 1 to 7 of R214 with the counters advanced. -/
theorem decodeVector_sameButPostfilter_unfiltered (C : Cfg α) (idx : BitVec 10) (s : CoreState α) :
    SameButPostfilter (decodeVector C idx s).core (stepEnd (decodeUnfiltered C idx s).1) := by
  rw [(decodeVector_eq C idx s).1]
  exact stepEnd_sameButPostfilter ((ringWrite_qin_sameButPostfilter ..).trans (decodeOutput_sameButPostfilter C _))

end

/-- Settles O58: the two agree up to the synthesized vector, and from there each changes the three elements and its counters. -/
theorem postfilterFeedsNothingBack : Obligations.PostfilterFeedsNothingBack := by
  intro α C c d idx dec h
  have dec' : d.MODE = .dec := by
    obtain ⟨en, st, qin, rfl⟩ := sameButPostfilter_iff.mp h
    exact dec
  obtain ⟨unfiltered, sq⟩ := decodeUnfiltered_sameButPostfilter C idx dec' h
  have left := decodeVector_sameButPostfilter_unfiltered C idx c
  have right := decodeVector_sameButPostfilter_unfiltered C idx d
  exact ⟨(left.trans (stepEnd_sameButPostfilter unfiltered)).trans right.symm, decodeVector_et_congr C idx dec' h, sq⟩

end Sys2Proof.Machine
end

section
/-! SUPPORT. The postfilter's four stages (46_postfilter.md R234 to R239): the lag taken is one of greatest value, the period
tracked is the refined or the held one, and the filters and the gain control meet their difference equations. -/

namespace Sys2Proof.Machine

variable {α : Type}

/-! ## Equality of binary32 -/

theorem b32Eq_iff {a b : B32} :
    b32Eq a b = true ↔ b32IsNumber a = true ∧ b32IsNumber b = true ∧ b32Key a = b32Key b := by
  simp [b32Eq, and_assoc]

theorem b32Eq_symm (a b : B32) (h : b32Eq a b = true) : b32Eq b a = true := by
  obtain ⟨ha, hb, key⟩ := b32Eq_iff.mp h
  exact b32Eq_iff.mpr ⟨hb, ha, key.symm⟩

theorem b32Eq_trans (a b c : B32) (hab : b32Eq a b = true) (hbc : b32Eq b c = true) : b32Eq a c = true := by
  obtain ⟨ha, -, key⟩ := b32Eq_iff.mp hab
  obtain ⟨-, hc, key'⟩ := b32Eq_iff.mp hbc
  exact b32Eq_iff.mpr ⟨ha, hc, key.trans key'⟩

theorem b32Le_of_eq (a b : B32) (h : b32Eq a b = true) : b32Le a b = true := by
  obtain ⟨ha, hb, key⟩ := b32Eq_iff.mp h
  exact b32Le_iff.mpr ⟨ha, hb, key.le⟩

/-! ## Stage 1: the greatest of the candidate lags -/

/-- What the choice of a lag needs of the comparisons of a NUM. -/
structure LagOrder (N : NumOps α) : Prop extends SearchOrder N where
  le_of_eq : ∀ a b, N.eq a b = true → N.le a b = true

theorem binary32_lagOrder : LagOrder binary32 := { binary32_searchOrder with le_of_eq := b32Le_of_eq }

/-- No candidate has a value above that of `best`. -/
def NoneAbove (N : NumOps α) (value : Nat → α) (best : Nat) (candidates : List Nat) : Prop :=
  ∀ l ∈ candidates, N.lt (value best) (value l) = false

section
variable {N : NumOps α} {prefers : Nat → Nat → Bool} {value : Nat → α}

/-- A lag replaces the best so far only where its value is no less, and is passed over only where it is not greater. -/
theorem betterLag_cases (order : LagOrder N) (best lag : Nat) :
    (betterLag N prefers value best lag = lag ∧ N.le (value best) (value lag) = true)
      ∨ (betterLag N prefers value best lag = best ∧ N.lt (value best) (value lag) = false) := by
  unfold betterLag
  split
  next taken =>
    obtain above | equal := Bool.or_eq_true_iff.mp taken
    · exact .inl ⟨rfl, order.le_of_lt _ _ above⟩
    · exact .inl ⟨rfl, order.le_of_eq _ _ (Bool.and_eq_true_iff.mp equal).1⟩
  next passed => exact .inr ⟨rfl, (Bool.or_eq_false_iff.mp (Bool.eq_false_iff.mpr passed)).1⟩

/-- What none exceeded is still exceeded by none after one more lag. -/
theorem NoneAbove.betterLag (order : LagOrder N) {best : Nat} {seen : List Nat} (h : NoneAbove N value best seen)
    (lag : Nat) :
    NoneAbove N value (betterLag N prefers value best lag) (lag :: seen) := by
  obtain ⟨taken, le⟩ | ⟨kept, notAbove⟩ := betterLag_cases (prefers := prefers) (value := value) order best lag
  · rw [taken]
    refine List.forall_mem_cons.mpr ⟨order.lt_irrefl _, fun l hl => Bool.eq_false_iff.mpr fun above => ?_⟩
    exact Bool.eq_false_iff.mp (h l hl) (order.lt_of_le_of_lt _ _ _ le above)
  · rw [kept]
    exact List.forall_mem_cons.mpr ⟨notAbove, h⟩

/-- The lag taken is one of greatest value (R234). -/
theorem bestLag_noneAbove (order : LagOrder N) (first : Nat) (rest : List Nat) :
    NoneAbove N value (bestLag N prefers value first rest) rest := by
  induction rest using List.reverseRecOn with
  | nil => exact fun l hl => absurd hl List.not_mem_nil
  | append_singleton seen lag ih =>
    rw [bestLag, List.foldl_concat]
    intro l hl
    exact ih.betterLag order lag l (by simpa [or_comm] using hl)

end

/-! ## Stage 1: the coarse, the refined and the held period -/

section
variable (N : NumOps α) (P : PfOpen α) (r : Nat → α)

/-- A decimated lag the coarse search may take (R234, R235): one of 5 to 35 of greatest normalised autocorrelation. -/
structure CoarseLag (c : Nat) : Prop where
  least : 5 ≤ c
  greatest : c ≤ 35
  best : ∀ l, 5 ≤ l → l ≤ 35 →
    N.lt (autocorrelation N P (decimate P r) P.coarseStart P.coarseWindow c)
      (autocorrelation N P (decimate P r) P.coarseStart P.coarseWindow l) = false

/-- A period the search at full resolution may take within `range` of `p` (R234). -/
structure NearPeriod (p range q : Nat) : Prop where
  below : q ≤ p + range
  above : p ≤ q + range
  best : ∀ q', 20 ≤ q' → q' ≤ 140 → q' ≤ p + range → p ≤ q' + range →
    N.lt (autocorrelation N P r P.fineStart P.fineWindow q) (autocorrelation N P r P.fineStart P.fineWindow q') = false

theorem mem_periodsNear {p range q : Nat} :
    q ∈ periodsNear p range ↔ (20 ≤ q ∧ q ≤ 140) ∧ q ≤ p + range ∧ p ≤ q + range := by
  simp only [periodsNear, List.mem_filter, List.mem_range'_1, Bool.and_eq_true, decide_eq_true_eq, pitchMin, pitchMax]
  omega

theorem coarsePeriod_spec (order : LagOrder N) : ∃ c, coarsePeriod N P r = 4 * c ∧ CoarseLag N P r c := by
  have mem_lags {l : Nat} : l ∈ List.range' (pitchMin / decimation) (pitchMax / decimation - pitchMin / decimation + 1)
      ↔ 5 ≤ l ∧ l ≤ 35 := by
    simp only [List.mem_range'_1, pitchMin, pitchMax, decimation]
    omega
  have bounds : ∀ c, c = pitchMin / decimation ∨ c ∈ List.range' (pitchMin / decimation)
      (pitchMax / decimation - pitchMin / decimation + 1) → 5 ≤ c ∧ c ≤ 35 := by
    rintro c (rfl | listed)
    · decide
    · exact mem_lags.mp listed
  obtain ⟨least, greatest⟩ := bounds _ (bestLag_mem N P.prefers _ _ _)
  exact ⟨_, rfl, least, greatest, fun l hl hl' => bestLag_noneAbove order _ _ l (mem_lags.mpr ⟨hl, hl'⟩)⟩

theorem periodNear_spec (order : LagOrder N) (range p : Nat) : NearPeriod N P r p range (periodNear N P r range p) := by
  have near : periodNear N P r range p ≤ p + range ∧ p ≤ periodNear N P r range p + range := by
    obtain self | listed := bestLag_mem N P.prefers (autocorrelation N P r P.fineStart P.fineWindow) p (periodsNear p range)
    · rw [periodNear, self]
      omega
    · exact (mem_periodsNear.mp listed).2
  exact ⟨near.1, near.2, fun q least greatest below above =>
    bestLag_noneAbove order _ _ q (mem_periodsNear.mpr ⟨⟨least, greatest⟩, below, above⟩)⟩

/-- What is tracked of a new and a held period: a jump is rejected unless the new period's tap dominates (R234, log 21). -/
def trackedPeriod (previous new held : Nat) : Nat :=
  if P.jump previous new && !P.dominates (P.normalizedTap r new) (P.normalizedTap r held) then held else new

/-- The period extracted is the one tracked, or, where that is more than DECIM away, one the residual repeats after
(R239, log 22). -/
def ExtractedFrom (tracked p : Nat) : Prop :=
  p = tracked ∨ (¬ (tracked ≤ p + 4 ∧ p ≤ tracked + 4) ∧ ∀ n < max 140 P.periodicSpan, N.eq (r n) (r (n + p)) = true)

theorem extractPitch_extractedFrom (previous : Nat) :
    ExtractedFrom N P r (trackPitch N P r previous) (extractPitch N P r previous) := by
  obtain ⟨tracked, -⟩ | ⟨p, known, far, answer⟩ := extractPitch_cases N P r previous
  · exact .inl tracked
  · obtain ⟨-, -, repeats, -⟩ := knownPeriod_some known
    rw [answer]
    refine .inr ⟨fun near => ?_, fun n hn => List.all_eq_true.mp repeats n (List.mem_range.mpr hn)⟩
    simp [withinDecim, decimation, near] at far

/-- Stage 1 as a whole. -/
theorem extractPitch_stage (order : LagOrder N) (previous : Nat) : ∃ c new held,
    CoarseLag N P r c ∧ NearPeriod N P r (4 * c) P.refineRange new
      ∧ NearPeriod N P r (max 20 (min 140 previous)) P.holdRange held
      ∧ ExtractedFrom N P r (trackedPeriod P r previous new held) (extractPitch N P r previous) := by
  obtain ⟨c, coarse, lag⟩ := coarsePeriod_spec N P r order
  have extracted := extractPitch_extractedFrom N P r previous
  rw [trackPitch, coarse] at extracted
  exact ⟨c, _, _, lag, periodNear_spec N P r order P.refineRange _, periodNear_spec N P r order P.holdRange _, extracted⟩

end

/-! ## Stages 2 to 4 -/

section
variable (N : NumOps α) (P : PfOpen α)

theorem get_combFilter (sq : Vec5 α) (r : Nat → α) (period : Nat) {k : Nat} (hk : k < 5) :
    (combFilter N P sq r period).get k = N.mul (P.combScale (P.combTap r period))
      (N.add ((P.combInput sq r).get k) (N.mul (P.combTap r period) (r (4 - k + period)))) := get_ofFn _ hk

theorem get_tiltFilter (k1 before : α) (y : Vec5 α) {k : Nat} (hk : k < 5) :
    (tiltFilter N P k1 before y).get k
      = N.add (y.get k) (N.mul (N.mul P.tiltFactor k1) (if k = 0 then before else y.get (k - 1))) := get_ofFn _ hk

/-- Taps of expanded coefficients. -/
theorem taps_bwexp (a m : List α) (dv : Nat → α) (M : Nat) :
    taps N (bwexp N a dv M) m M = sumFrom N 1 M (fun i => N.mul (N.mul (rd N a i) (dv i)) (rd N m (i - 1))) :=
  sumFrom_congr N fun i _ _ => by rw [rd_bwexp N a dv (by omega)]

theorem get_shortTermFilter (a10 : List α) {m : WMem α} (u : Vec5 α) (hz : m.z.length = 10) (hp : m.p.length = 10)
    {k : Nat} (hk : k < 5) :
    let y := (shortTermFilter N P a10 m u).2
    y.get k = N.sub
      (N.add (u.get k) (sumFrom N 1 10 (fun i => N.mul (N.mul (rd N a10 i) (geometric N P.zeroFactor i))
        (rd N ((u.toList.take k).reverse ++ m.z) (i - 1)))))
      (sumFrom N 1 10 (fun i => N.mul (N.mul (rd N a10 i) (geometric N P.poleFactor i))
        (rd N ((y.toList.take k).reverse ++ m.p) (i - 1)))) := by
  intro y
  rw [← taps_bwexp, ← taps_bwexp]
  exact pwfilt_weights hz hp k hk

/-- The smoothed gain at each of the five samples (R238). -/
def gainTrack (target old : α) (f : Vec5 α) : Vec5 α := Vec5.ofFn (fun k => runFor (smoothGain N P target) old f (k + 1))

theorem runFor_smoothGain (target old : α) (f : Vec5 α) {k : Nat} (hk : k < 5) :
    runFor (smoothGain N P target) old f k = if k = 0 then old else (gainTrack N P target old f).get (k - 1) := by
  cases k with
  | zero => rfl
  | succ k => rw [if_neg k.succ_ne_zero, Nat.add_sub_cancel, gainTrack, get_ofFn _ (by omega)]

theorem get_gainTrack (target old : α) (f : Vec5 α) {k : Nat} (hk : k < 5) :
    (gainTrack N P target old f).get k
      = N.add (N.mul P.smoothing (if k = 0 then old else (gainTrack N P target old f).get (k - 1)))
        (N.mul (N.sub N.one P.smoothing) target) := by
  rw [← runFor_smoothGain N P target old f hk]
  exact get_ofFn _ hk

/-- Every sample times the gain at that sample. -/
theorem get_scan5_smoothGain (target old : α) (f : Vec5 α) {k : Nat} (hk : k < 5) :
    (scan5 (smoothGain N P target) old f).2.get k = N.mul ((gainTrack N P target old f).get k) (f.get k) := by
  rw [get_scan5 _ _ _ hk, gainTrack, get_ofFn _ hk]
  rfl

end

/-! ## The vectors between the stages of `PF.step` (R231) -/

section
variable (N : NumOps α) (P : PfOpen α) (st : PfState α) (input : PfInput α)

/-- What stage 2 hands to stage 3: the comb at the extracted period (R236). -/
def combOutput : Vec5 α :=
  combFilter N P input.sq (P.residual st input) (extractPitch N P (P.residual st input) st.period)

/-- What the order-10 filter hands to the tilt (R237). -/
def shortTermOutput : Vec5 α :=
  (shortTermFilter N P input.a10 { z := st.z, p := st.p } (combOutput N P st input)).2

/-- What stage 3 hands to stage 4 (R237). -/
def tiltOutput : Vec5 α := tiltFilter N P input.k1 (rd N st.p 0) (shortTermOutput N P st input)

/-- The gains stage 4 applies (R238). -/
def stageGains : Vec5 α :=
  gainTrack N P (vectorGain N P input.sq (tiltOutput N P st input)) st.gain (tiltOutput N P st input)

/-- `PF.step` answers the filtered vector times the gains, and keeps the last of them. -/
theorem postfilterStep_output :
    let r := postfilterStep N P st input.sq input.qsyn input.qexc input.vx input.a10 input.k1
    r.1.gain = (stageGains N P st input).v4
      ∧ ∀ k < 5, r.2.get k = N.mul ((stageGains N P st input).get k) ((tiltOutput N P st input).get k) :=
  ⟨rfl, fun _ hk => get_scan5_smoothGain N P _ _ _ hk⟩

/-- `PF.step` keeps the order-10 filter's newest inputs and outputs. -/
theorem postfilterStep_memory (hz : st.z.length = 10) (hp : st.p.length = 10) :
    let r := postfilterStep N P st input.sq input.qsyn input.qexc input.vx input.a10 input.k1
    r.1.z = (combOutput N P st input).toList.reverse ++ st.z.take 5
      ∧ r.1.p = (shortTermOutput N P st input).toList.reverse ++ st.p.take 5 := by
  have memory : (shortTermFilter N P input.a10 { z := st.z, p := st.p } (combOutput N P st input)).1
      = WMem.after { z := st.z, p := st.p } (combOutput N P st input) (shortTermOutput N P st input) := pwfilt_memory hz hp
  exact ⟨congrArg WMem.z memory, congrArg WMem.p memory⟩

end

/-! ## POSTFILT as an instruction -/

/-- On a residual that repeats after `p` samples and after no fewer the period extracted is within DECIM of `p` (R239). -/
theorem extractPitch_of_periodic (x : Nat → B32) {p : Nat} (previous : Nat) (least : 20 ≤ p) (greatest : p ≤ 140)
    (repeats : ∀ n, b32Eq (x n) (x (n + p)) = true)
    (noFewer : ∀ q, 1 ≤ q → q < p → ∃ n, b32Eq (x n) (x (n + q)) = false) :
    extractPitch binary32 Config.pfOpen x previous ≤ p + 4 ∧ p ≤ extractPitch binary32 Config.pfOpen x previous + 4 :=
  extractPitch_known
    (knownPeriod_of_periodic (N := binary32) Config.pfOpen b32Eq_symm b32Eq_trans least greatest repeats noFewer) previous

/-- Settles O49: the period is that of stage 1, and the vectors of stages 2 to 4 are the answers of the model's filters. -/
theorem postfiltWritesItsOwnStateOnly : Obligations.PostfiltWritesItsOwnStateOnly := by
  refine ⟨by decide, fun x p previous => extractPitch_of_periodic x previous, ?_⟩
  intro s st sq r P input x d value coarse fine level
  obtain ⟨least, greatest⟩ : 20 ≤ r.1.period ∧ r.1.period ≤ 140 := postfilterStep_period ..
  obtain ⟨c, new, held, lag, refined, hold, extracted⟩ := extractPitch_stage binary32 P x binary32_lagOrder st.period
  refine ⟨exec_postfilt s, least, greatest, rfl, rfl,
    ⟨c, new, held, lag.least, lag.greatest, lag.best, refined.below, refined.above, refined.best, hold.below, hold.above,
      hold.best, extracted⟩, fun hz hp => ?_⟩
  obtain ⟨gain, out⟩ := postfilterStep_output binary32 P st input
  obtain ⟨z, p⟩ := postfilterStep_memory binary32 P st input hz hp
  exact ⟨combOutput binary32 P st input, shortTermOutput binary32 P st input, tiltOutput binary32 P st input,
    stageGains binary32 P st input, fun k hk => get_combFilter binary32 P _ _ _ hk,
    fun k hk => get_shortTermFilter binary32 P s.PF_A10 _ hz hp hk,
    fun k hk => get_tiltFilter binary32 P s.PF_K1 _ _ hk, fun k hk => get_gainTrack binary32 P _ _ _ hk, out, z, p, gain⟩

end Sys2Proof.Machine
end

section
/-! SUPPORT. Refusals (60_exceptions.md R254, R255) and the idle step (R271): which command words name an instruction, what a word
that names none does, and the commands whose need is not met. -/

namespace Sys2Proof

/-! ## Command words that name nothing (30_encoding.md R97, R102) -/

/-- A command word that names an instruction has an assigned opcode and no argument, but for INIT_DEC with the postfilter. -/
theorem toNat_of_decodeCommand {w : HalfWord} {i : Instr} (h : decodeCommand w = .ok i) :
    (w.toNat / 4096 ≤ 5 ∧ w.toNat % 4096 = 0) ∨ w.toNat = 0x2001 := by
  obtain ⟨-, word⟩ := encode_of_decodeCommand h
  obtain rfl | rfl | ⟨pf, rfl⟩ | rfl | rfl | rfl := Machine.decodeCommand_cases h
  case inr.inr.inl =>
    obtain rfl := CodeWord.cw.inj ((encode_initDec pf).symm.trans word)
    cases pf <;> decide
  all_goals
    obtain rfl := CodeWord.cw.inj word
    decide

theorem plainCommand_eq_error {arg : BitVec 12} {i : Instr} {r : Reject} (h : plainCommand arg i = .error r) :
    r = .illegalCommand := by
  unfold plainCommand at h
  split at h
  · cases h
  · exact (Except.error.inj h).symm

theorem initDecCommand_eq_error {arg : BitVec 12} {r : Reject} (h : initDecCommand arg = .error r) : r = .illegalCommand := by
  unfold initDecCommand at h
  split at h
  · cases h
  · exact (Except.error.inj h).symm

/-- A command word is rejected for one reason only. -/
theorem decodeCommand_eq_error {w : HalfWord} {r : Reject} (h : decodeCommand w = .error r) : r = .illegalCommand := by
  unfold decodeCommand at h
  split at h
  case h_3 => exact initDecCommand_eq_error h
  case h_7 => exact (Except.error.inj h).symm
  all_goals exact plainCommand_eq_error h

namespace Machine

/-! ## What a step does with the port CMD -/

theorem step_of_idle {s : State} (bench : s.bench = none) (cmd : s.CMD = []) : step s = .next s := by
  rw [step, bench, cmd]

theorem step_of_command {s : State} {w : HalfWord} {rest : List HalfWord} (bench : s.bench = none) (cmd : s.CMD = w :: rest) :
    step s = runWord (.cw w) { s with CMD := rest } := by
  rw [step, bench, cmd]

/-- Settles O15: with nothing on the bench and nothing on CMD a step has no word to run. -/
theorem idleStepHoldsAllState : Obligations.IdleStepHoldsAllState := fun _ bench cmd => step_of_idle bench cmd

/-- Settles O13: no word of the three kinds decodes, and a command word that does not decode is refused. -/
theorem illegalCommandWordsAreRefused : Obligations.IllegalCommandWordsAreRefused := by
  intro s w rest bench cmd illegal
  rw [step_of_command bench cmd]
  obtain ⟨i, word, -⟩ | ⟨r, word, rejects⟩ := runWord_cases (.cw w) { s with CMD := rest }
  · have legal := toNat_of_decodeCommand word
    omega
  · obtain rfl := decodeCommand_eq_error word
    exact rejects

/-! ## Commands whose need is not met (R255) -/

theorem execEncVec_refused {s : State} (unmet : ¬ (s.CTRL = .running ∧ s.MODE = .enc)) :
    execEncVec s = .next (s.setCore (refuseCommand .badState s.toCoreState)) :=
  if_neg (mt (vectorReady_iff ..).mp unmet)

theorem execDecVec_refused {s : State} (unmet : ¬ (s.CTRL = .running ∧ s.MODE = .dec)) :
    execDecVec s = .next (s.setCore (refuseCommand .badState s.toCoreState)) :=
  if_neg (mt (vectorReady_iff ..).mp unmet)

/-- Settles O6: the vector commands test CTRL and MODE before anything else, and FINISH is O5's second case. -/
theorem commandsAreRefusedInTheWrongState : Obligations.CommandsAreRefusedInTheWrongState := by
  intro s
  obtain ⟨-, finish⟩ := finishEndsARunningSession
  obtain ⟨-, finishRefused⟩ := finish s
  exact ⟨execEncVec_refused, execDecVec_refused, finishRefused⟩

end Machine

end Sys2Proof
end
